-- ==== Sys2Proof/Word.lean ====
section
/-! DEFINITION. The words of the Channel Codec: bytes, Samples and command words (30_encoding.md R71, R72, R82). -/

namespace Sys2Proof

/-- `u8`: eight bits, always read as the number 0 to 255 (R71). -/
abbrev Byte := BitVec 8

/-- `s16`: sixteen bits in two's complement (R72). Its value is `BitVec.toInt`. -/
abbrev Sample := BitVec 16

/-- The command word `CMD[1:0]`: bit 1 is `UNIT`, bit 0 is `SEL` (R82). -/
abbrev CmdWord := BitVec 2

end Sys2Proof
end

