-- ==== Sys2Proof/Syntax.lean ====
section
/-! DEFINITION. The commands of the Channel Codec, one constructor per row of the opcode map (30_encoding.md R83), its
registers (10_state.md R33), the channel selector (R84) and the outcomes (R86). -/

namespace Sys2Proof

/-- The commands (R83). Operands are not in the command word (R82). -/
inductive Instr where
  /-- `0b00`, R98 -/
  | extractLeft
  /-- `0b01`, R99 -/
  | extractRight
  /-- `0b10`, R121 -/
  | mix
  /-- `0b11`, R85: starts nothing -/
  | reserved
  deriving DecidableEq, Repr, Inhabited

/-- The channel selector (R84). -/
inductive Channel where
  | left
  | right
  deriving DecidableEq, Repr, Inhabited

/-- The six registers the host reaches (R33). Their addresses are the platform's (log 19). -/
inductive Reg where
  | cmd
  | status
  | llen
  | rlen
  | xlen
  | olen
  deriving DecidableEq, Repr, Inhabited

/-- The outcome of an operation, codes 0 to 4 of R86. Codes 5 to 7 are never produced and have no name here. -/
inductive OutcomeCode where
  | none
  | success
  | resourceNotFound
  | unsupportedFormat
  | lengthMismatch
  deriving DecidableEq, Repr, Inhabited

/-- A result buffer: the Extractor's Channel Buffer or the Mixer's Raw Byte Buffer (R44). -/
inductive Buffer where
  | samples (s : List Sample)
  | bytes (b : List Byte)
  deriving DecidableEq, Repr, Inhabited

/-- The host-visible result of an operation, the record `(OUTCOME, buffer, TRUNC)` of R44. -/
structure OpResult where
  outcome : OutcomeCode
  buffer  : Option Buffer
  trunc   : Bool
  deriving DecidableEq, Repr, Inhabited

end Sys2Proof
end

