-- ==== Sys2Proof/Config.lean ====
section
/-! DEFINITION. What is fixed for a machine or open to its surroundings: the fixed parameters (00_scope.md R9, R10),
what an audio resource is (R16, R46, R87), and the free values (opaque, no body: no proof can see one). -/

namespace Sys2Proof

/-- `SAMPLE_BITS` (R9). -/
def Config.sampleBits : Nat := 16

/-- `CHANNELS` (R9). -/
def Config.channels : Nat := 2

/-- `FRAME_BYTES` (R9). -/
def Config.frameBytes : Nat := 4

/-- The default of `CHUNK_BYTES` (R10). The value a machine has is the field `chunkBytes` of its state (log 16). -/
def Config.defaultChunkBytes : Nat := 16

/-- The format descriptor, the environment's answer to `StreamOpen` (R87). -/
structure Descriptor where
  found    : Bool
  parsable : Bool
  bits     : Nat
  channels : Nat
  deriving DecidableEq, Repr, Inhabited

/-- One opening of an audio resource by the environment: the descriptor it reports and the bytes the stream delivers,
in the pieces in which they become available. One piece is a stream that keeps the full-chunk contract (R145); a piece
boundary is a short read (R117) and an empty piece is a zero-byte answer (R88, R142). After the last piece the stream
answers end of data (R146), unless it is `endless` (R195; its further bytes are free values). DESIGN CHOICE (log 10). -/
structure Session where
  descriptor : Descriptor
  segments   : List (List Byte)
  endless    : Bool
  deriving DecidableEq, Repr, Inhabited

/-- The whole byte sequence `B` of a stream that ends (R46, R97). -/
def Session.bytes (c : Session) : List Byte := c.segments.flatten

/-- FREE VALUE (log 11): what the environment opens where the state lists no answer for a `StreamOpen` (R69).
Instances with equal counters draw equal sessions (log 35). -/
opaque Config.freeSession : Nat → Session

/-- FREE VALUE (log 34): byte `i` of a chunk of an endless stream (R69, R195). Instances with equal counters draw equal
bytes (log 35). -/
opaque Config.freeStreamByte : Nat → Nat → Byte

/-- FREE VALUE (log 7): what a host reads from a register that holds no value (R43, U12). Instances with equal
counters draw equal values (log 35). -/
opaque Config.freeRegister : Nat → Nat

/-- FREE VALUE (log 22): the buffer a host gets that takes a result before `DONE` (R189, U15). Instances with equal
counters draw equal buffers (log 35). -/
opaque Config.freeBuffer : Nat → Option Buffer

end Sys2Proof
end

