-- ==== Sys2Proof/WellFormed.lean ====
section
/-! DEFINITION. Which terms are well formed: the commands a host may issue (42_host_and_stream_ops.md R154), a program of
them, and the configurations the spec allows (00_scope.md R10). -/

namespace Sys2Proof

/-- A command a program may issue: every one but the reserved word (R85, R154: "not issue `0b11`"). -/
def Instr.wf : Instr → Bool
  | .extractLeft => true
  | .extractRight => true
  | .mix => true
  | .reserved => false

/-- A program, the sequence of commands a host issues, that the model accepts. R85: "A model refuses a program that
issues it"; what the hardware does with the word is `Machine.execReserved` (log 2). -/
def Instr.programWf (p : List Instr) : Bool := p.all Instr.wf

/-- `CHUNK_BYTES` is a multiple of 4 from 4 up (R10). A configuration that breaks it is refused (R188). -/
def Config.chunkOk (n : Nat) : Bool := 4 ≤ n && n % 4 == 0

end Sys2Proof
end

