-- ==== Sys2Proof/Decode.lean ====
section
/-! DEFINITION. Decoding and encoding of command words (30_encoding.md R82, R83). A command word stands in the low two
bits of one byte and the upper bits are ignored (10_state.md R34; one byte per word: log 4). -/

namespace Sys2Proof

/-- Why a list of bytes is not read as a command. -/
inductive DecodeError where
  /-- there is no byte: a command word is missing -/
  | noCommandWord
  deriving DecidableEq, Repr

/-- The opcode map (R83), complete: `UNIT` is bit 1, `SEL` is bit 0. -/
def decodeWord (w : CmdWord) : Instr :=
  match w.getLsbD 1, w.getLsbD 0 with
  | false, false => .extractLeft
  | false, true  => .extractRight
  | true,  false => .mix
  | true,  true  => .reserved

/-- `CMD[1:0]` of a byte written to `CMD`; "upper bits ignored" (R34). -/
def cmdBits (b : Byte) : CmdWord := b.extractLsb' 0 2

/-- The command a byte written to `CMD` is. -/
def decodeByte (b : Byte) : Instr := decodeWord (cmdBits b)

/-- Total on any bytes: one command, and the bytes after it. -/
def decode : List Byte → Except DecodeError (Instr × List Byte)
  | [] => .error .noCommandWord
  | b :: rest => .ok (decodeByte b, rest)

/-- The commands of a whole program, one byte each. -/
def decodeProgram : List Byte → List Instr
  | [] => []
  | b :: rest => decodeByte b :: decodeProgram rest

/-- The command word of a command (R83). -/
def encodeWord : Instr → CmdWord
  | .extractLeft => 0b00#2
  | .extractRight => 0b01#2
  | .mix => 0b10#2
  | .reserved => 0b11#2

/-- The byte that is written to `CMD` for a command, upper bits zero. -/
def encodeByte (i : Instr) : Byte := (encodeWord i).setWidth 8

def encode (i : Instr) : List Byte := [encodeByte i]

def encodeProgram : List Instr → List Byte
  | [] => []
  | i :: rest => encode i ++ encodeProgram rest

/-- The byte that holds a table word of `nbits` bits: the bits above `nbits` are 0, and no command has a second byte. -/
def tableByte (nbits w : Nat) : Byte := BitVec.ofNat 8 (w % 2 ^ nbits)

/-- The command the decoder reads from a word numbered as spec/opcode_table.json numbers it. -/
def decodeTableWord (nbits w : Nat) : Option Instr :=
  match decode [tableByte nbits w] with
  | .ok (i, _) => some i
  | .error _ => none

end Sys2Proof
end

