-- ==== Sys2Proof/Machine/State.lean ====
section
/-! DEFINITION. The state of one Channel Codec (10_state.md R17 to R29), with what its environment and its host hold
(R16) beside it as plain data, and the state after reset (R42). -/

namespace Sys2Proof.Machine

/-- The phases of the sequencer (R17). -/
inductive Phase where
  | idle
  | xOpen
  | xRead
  | xWalk
  | xClose
  | mCheck
  | mWrite
  | done
  deriving DecidableEq, Repr, Inhabited

/-- The requests of the Codec to the environment (R135). -/
inductive Request where
  | streamOpen
  | streamRead (size : Nat)
  | streamClose
  deriving DecidableEq, Repr

/-- What the environment holds: its answers to the opens to come, the open stream (what of it is still to be read: the
read position of R39 b), and the requests it has been sent, oldest first. -/
structure Env where
  sessions : List Session
  stream   : Option Session
  requests : List Request
  deriving DecidableEq, Repr

/-- What a host or a platform can do to a Codec (R135, R154, R181). -/
inductive HostEvent where
  /-- a write of a register; a write of `CMD` is `START` (R34) -/
  | write (r : Reg) (v : Byte)
  /-- a read of a register -/
  | read (r : Reg)
  /-- the host presents the operands of mixes to come (R136) -/
  | present (left right : List Sample)
  /-- the host takes the result (R148) -/
  | takeResult
  /-- the platform resets the Codec (R181) -/
  | reset
  deriving DecidableEq, Repr

/-- When an event lands (log 23). -/
inductive Timing where
  /-- the host waits until the Codec is at rest (R191) -/
  | atRest
  /-- after that many steps of the Codec, busy or not -/
  | after (steps : Nat)
  deriving DecidableEq, Repr

structure Pending where
  timing : Timing
  event  : HostEvent
  deriving DecidableEq, Repr

/-- What the host has been given. -/
inductive Observation where
  | register (r : Reg) (value : Nat)
  | result (r : OpResult)
  deriving DecidableEq, Repr

/-- What the host holds: the operands it presents, its events to come, first first, and what it has been given. -/
structure HostSide where
  left    : List Sample
  right   : List Sample
  pending : List Pending
  seen    : List Observation
  deriving DecidableEq, Repr

/-- One Channel Codec instance. Fields named as in 10_state.md, in small letters. -/
structure State where
  ph         : Phase
  op         : CmdWord
  outcome    : OutcomeCode
  trunc      : Bool
  held       : Bool
  cbuf       : List Byte
  cnt        : Nat
  off        : Nat
  xout       : List Sample
  lbuf       : List Sample
  rbuf       : List Sample
  len        : Nat
  k          : Nat
  /-- `MOUT`, absent or allocated; an allocated byte that is not yet written holds no value (R29, R43) -/
  mout       : Option (List (Option Byte))
  /-- the Extractor has been started since reset: `XLEN` holds a value (R37; log 8) -/
  extracted  : Bool
  /-- the Mixer has been started since reset: `LLEN`, `RLEN`, `OLEN` hold a value (R36, R37; log 8) -/
  mixed      : Bool
  /-- the parameter `CHUNK_BYTES` (R10); no step changes it -/
  chunkBytes : Nat
  env        : Env
  host       : HostSide
  /-- how many free values have been drawn (log 9) -/
  draws      : Nat
  deriving DecidableEq, Repr

/-- Why the model stops where a step rule would read an element that holds no value (R43, U13) or where no step rule of
the spec is enabled. None is a failure of the Codec (R159) and none is raised in a state that keeps `Safety.Inv`: each is
SAFE. -/
inductive Fault where
  /-- X_READ with no stream open (R141); raised by `stepXRead`; safe -/
  | noStream
  /-- X_WALK would read a byte at or above `CNT` (R107); raised by `stepXWalk`; safe -/
  | noChunkByte
  /-- M_WRITE would read a Sample beyond an operand (R127); raised by `stepMWrite`; safe -/
  | noOperand
  /-- M_WRITE would write a byte of `MOUT` that is not allocated (R122); raised by `stepMWrite`; safe -/
  | noOutputByte
  /-- M_WRITE with `K` above `LEN`: no rule is enabled (R124, R125); raised by `stepMWrite`; safe -/
  | noRuleEnabled
  deriving DecidableEq, Repr

/-- Why the model gives a step no meaning. -/
inductive Refusal where
  /-- an instruction without a meaning yet, raised by `exec`; safe -/
  | notModelled (mnemonic : String)
  /-- `CHUNK_BYTES` breaks R10: "A model refuses a configuration that breaks 00_scope.md rule R10" (R188); raised by
  `startExtraction` and `stepXRead`; safe -/
  | chunkSize
  /-- a host read of `CMD`: "a model refuses such a read" (R34); raised by `readRegister`; safe -/
  | readOfCmd
  deriving DecidableEq, Repr

/-- The state after reset (R42) of a Codec whose `CHUNK_BYTES` is `n`. An element to which R42 gives no value has the
one log 6 names; what the environment and the host hold is empty (logs 5, 10, 33). -/
def State.resetWith (n : Nat) : State where
  ph := .idle
  op := 0#2
  outcome := .none
  trunc := false
  held := false
  cbuf := List.replicate n 0#8
  cnt := 0
  off := 0
  xout := []
  lbuf := []
  rbuf := []
  len := 0
  k := 0
  mout := none
  extracted := false
  mixed := false
  chunkBytes := n
  env := { sessions := [], stream := none, requests := [] }
  host := { left := [], right := [], pending := [], seen := [] }
  draws := 0

/-- The state after reset with the spec's default `CHUNK_BYTES` (R10, R42). -/
def State.reset : State := State.resetWith Config.defaultChunkBytes

end Sys2Proof.Machine
end

