-- ==== Sys2Proof/Machine/Flags.lean ====
section
/-! DEFINITION. The flags: the outcome codes (30_encoding.md R86), `BUSY` and `DONE`, the register `STATUS` (10_state.md
R35) and the rule of `TRUNC` (R20, R101). -/

namespace Sys2Proof.Machine

/-- The 3-bit code of an outcome (R86). -/
def outcomeBits : OutcomeCode → BitVec 3
  | .none => 0#3
  | .success => 1#3
  | .resourceNotFound => 2#3
  | .unsupportedFormat => 3#3
  | .lengthMismatch => 4#3

/-- The three failure outcomes (R155): the codes 2 to 4. -/
def isFailure : OutcomeCode → Bool
  | .none => false
  | .success => false
  | .resourceNotFound => true
  | .unsupportedFormat => true
  | .lengthMismatch => true

/-- "at rest" when `PH` is `IDLE` or `DONE` (R17). -/
def Phase.atRest : Phase → Bool
  | .idle => true
  | .done => true
  | .xOpen => false
  | .xRead => false
  | .xWalk => false
  | .xClose => false
  | .mCheck => false
  | .mWrite => false

/-- `STATUS.BUSY` (R35). -/
def State.busy (s : State) : Bool := !s.ph.atRest

/-- `STATUS.DONE` (R35). -/
def State.isDone (s : State) : Bool := s.ph == .done

/-- The register `STATUS` (R35): bit 0 `BUSY`, bit 1 `DONE`, bits 4:2 `OUTCOME`, bit 5 `TRUNC`, bit 6 `HELD`, bit 7 0. -/
def State.status (s : State) : BitVec 8 :=
  0#1 ++ BitVec.ofBool s.held ++ BitVec.ofBool s.trunc ++ outcomeBits s.outcome ++ BitVec.ofBool s.isDone ++
    BitVec.ofBool s.busy

/-- `TRUNC` after a chunk of `n` bytes: set when `n` is not a multiple of 4 (R20, R101), else as it was. -/
def truncAfter (trunc : Bool) (n : Nat) : Bool := trunc || n % 4 != 0

end Sys2Proof.Machine
end

