-- ==== Sys2Proof/Machine/Operands.lean ====
section
/-! DEFINITION. Operand assembly: the Sample of two bytes and the two bytes of a Sample (30_encoding.md R77, R79), the
channel of an offset (R94), the bound of the walk (40_extractor.md R102), the format test (R140), and what a stream
answers to a read (R88, R141). -/

namespace Sys2Proof.Machine

/-- `decode(lo, hi)`: `((hi << 8) | lo)[15:0]` read as two's complement (R77). -/
def decodeSample (lo hi : Byte) : Sample := (hi.setWidth 16 <<< 8) ||| lo.setWidth 16

/-- `encode(s)`: the low byte, then the high byte (R79). -/
def encodeSample (s : Sample) : Byte × Byte := (s.extractLsb' 0 8, s.extractLsb' 8 8)

/-- The four bytes of a frame: left low, left high, right low, right high (R73). -/
def encodeFrame (l r : Sample) : List Byte :=
  [(encodeSample l).1, (encodeSample l).2, (encodeSample r).1, (encodeSample r).2]

/-- The selector of a command word, bit 0: 0 left, 1 right (R84). -/
def selector (w : CmdWord) : Channel := if w.getLsbD 0 then .right else .left

/-- The selector's bit (R84). -/
def selBit : Channel → Nat
  | .left => 0
  | .right => 1

/-- "this offset is of the requested channel": `o mod 4 = 2 × SEL` (R94). -/
def onChannel (c : Channel) (o : Nat) : Bool := o % 4 == 2 * selBit c

/-- Where the walk of a chunk of `n` bytes ends: `CNT - (CNT mod 4)` (R102, R106). -/
def walkLimit (n : Nat) : Nat := n - n % 4

/-- The format test (R140): whether a stream that was found is accepted. -/
def formatAccepted (d : Descriptor) : Bool :=
  d.parsable && d.bits == Config.sampleBits && d.channels == Config.channels

/-- The answer to `StreamRead` (R88): `Data(n, bytes)` with `n` the length of `bytes`, or the marker `EOS`. -/
inductive ReadAnswer where
  | data (bytes : List Byte)
  | eos
  deriving DecidableEq, Repr

/-- The next `n` bytes of an endless stream: free values (log 34). -/
def freeChunk (draw n : Nat) : List Byte := (List.range n).map (Config.freeStreamByte draw)

/-- A read past the listed bytes of an endless stream draws a free chunk. -/
def readsFree (c : Session) : Bool := c.segments.isEmpty && c.endless

/-- What the environment answers to `StreamRead(n)` (R141): at most `n` bytes of the piece that is available, `EOS` when
nothing is left (R146). -/
def streamAnswer (n draw : Nat) (c : Session) : ReadAnswer :=
  match c.segments with
  | [] => if c.endless then .data (freeChunk draw n) else .eos
  | seg :: _ => .data (seg.take n)

/-- What is left of the stream after that answer: the bytes returned are consumed (R58). -/
def streamAfter (n : Nat) (c : Session) : Session :=
  match c.segments with
  | [] => c
  | seg :: rest => if seg.length ≤ n then { c with segments := rest } else { c with segments := seg.drop n :: rest }

end Sys2Proof.Machine
end

