-- ==== Sys2Proof/Machine/Ops.lean ====
section
/-! DEFINITION. The named operations over the state: `START` (42_host_and_stream_ops.md R136), the end of an operation and
the raising of a failure (60_exceptions.md R163), the stream requests (R139 to R143), the buffers (20_memory.md R45) and
the result record (10_state.md R44). -/

namespace Sys2Proof.Machine

/-! ## The end of an operation -/

/-- `raise <Outcome>` (R163): `OUTCOME <- code`, `PH <- DONE`, and nothing else. No state is saved and control goes
nowhere; there is no return from it (R167). -/
def State.raise (c : OutcomeCode) (s : State) : State := { s with outcome := c, ph := .done }

/-- The end of an operation that succeeds (R104, R125). -/
def State.succeed (s : State) : State := { s with outcome := .success, ph := .done }

/-! ## START -/

/-- `START` of an extraction (R136). -/
def State.startExtract (w : CmdWord) (s : State) : State :=
  { s with op := w, outcome := .none, trunc := false, xout := [], ph := .xOpen, extracted := true }

/-- `START` of a mix (R136): the operands are latched from the host. -/
def State.startMix (w : CmdWord) (s : State) : State :=
  { s with
    op := w, outcome := .none, trunc := false, lbuf := s.host.left, rbuf := s.host.right, mout := none,
    ph := .mCheck, mixed := true }

/-- A command is taken only at rest; while busy it is dropped and no state changes (R137). -/
def whenAtRest (s : State) (start : Host.Outcome State Fault Refusal) : Host.Outcome State Fault Refusal :=
  if s.ph.atRest then start else .next s

/-- `START` of an extraction by a Codec whose `CHUNK_BYTES` meets R10, as it must "before the first extraction" (R184). -/
def startExtraction (w : CmdWord) (s : State) : Host.Outcome State Fault Refusal :=
  if Config.chunkOk s.chunkBytes then .next (s.startExtract w) else .refused .chunkSize

/-! ## The stream requests -/

/-- Counts one free value drawn, where one was. -/
def State.draw (free : Bool) (s : State) : State := { s with draws := if free then s.draws + 1 else s.draws }

/-- The environment's answer to the next `StreamOpen` (R139): the first one listed, a free one where none is
(log 11), the same for every instance with as many draws (log 35). -/
def State.openAnswer (s : State) : Session :=
  match s.env.sessions with
  | c :: _ => c
  | [] => Config.freeSession s.draws

/-- `StreamOpen()` (R139): the resource is acquired when it is found, with the read position at its first byte. -/
def State.streamOpen (s : State) : State :=
  { s with
    env := { sessions := s.env.sessions.tail
             stream := if s.openAnswer.descriptor.found then some s.openAnswer else s.env.stream
             requests := s.env.requests ++ [.streamOpen] }
    draws := if s.env.sessions.isEmpty then s.draws + 1 else s.draws }

/-- `StreamRead(CHUNK_BYTES)` from the open stream `c` (R141): the bytes it answers are consumed. -/
def State.streamRead (c : Session) (s : State) : State :=
  { s with
    env := { s.env with
             stream := some (streamAfter s.chunkBytes c)
             requests := s.env.requests ++ [.streamRead s.chunkBytes] }
    draws := if readsFree c then s.draws + 1 else s.draws }

/-- `StreamClose()` and `HELD <- 0` (R143, R104). -/
def State.release (s : State) : State :=
  { s with env := { s.env with stream := none, requests := s.env.requests ++ [.streamClose] }, held := false }

/-- `StreamOpen` answered `found`: the stream is held (R100). -/
def State.acquire (s : State) : State := { s with held := true }

/-! ## The chunk buffer and the walk -/

/-- The arrival of a chunk of at least one byte (R101): `CBUF[0 : n] <- bytes`, the rest of `CBUF` as it was. -/
def State.loadChunk (bytes : List Byte) (s : State) : State :=
  { s with
    cbuf := bytes ++ s.cbuf.drop bytes.length, cnt := bytes.length, off := 0,
    trunc := truncAfter s.trunc bytes.length, ph := .xWalk }

/-- `CBUF[i]`, for the bytes of the current chunk: bytes at or above `CNT` are never read (R107). -/
def State.chunkByte (s : State) (i : Nat) : Option Byte := if i < s.cnt then s.cbuf[i]? else none

/-- `OFF <- OFF + 2` past the other channel's bytes (R102). -/
def State.skipSample (s : State) : State := { s with off := s.off + 2 }

/-- `XOUT <- XOUT ++ [x]` and `OFF <- OFF + 2` (R102). -/
def State.appendSample (x : Sample) (s : State) : State := { s with xout := s.xout ++ [x], off := s.off + 2 }

/-! ## The Mixer's buffers -/

/-- Allocation (R122): `LEN`, `MOUT` of `4 × LEN` bytes with no byte holding a value, `K <- 0`. -/
def State.allocate (s : State) : State :=
  { s with
    len := s.lbuf.length, mout := some (List.replicate (4 * s.lbuf.length) none), k := 0, ph := .mWrite }

/-- The four writes of a pair at output offset `4k` (R124). -/
def storeFrame (m : List (Option Byte)) (k : Nat) (l r : Sample) : List (Option Byte) :=
  (((m.set (4 * k) (some (encodeSample l).1)).set (4 * k + 1) (some (encodeSample l).2)).set
    (4 * k + 2) (some (encodeSample r).1)).set (4 * k + 3) (some (encodeSample r).2)

/-- One pair written and `K <- K + 1` (R124). -/
def State.writePair (m : List (Option Byte)) (l r : Sample) (s : State) : State :=
  { s with mout := some (storeFrame m s.k l r), k := s.k + 1 }

/-- The bytes of a buffer whose every byte has been written; `none` where one holds no value. -/
def writtenBytes : List (Option Byte) → Option (List Byte)
  | [] => some []
  | some b :: m => (writtenBytes m).map (b :: ·)
  | none :: _ => none

/-- `MOUT[a]`: `none` where `MOUT` is absent, where it has no byte `a`, and where byte `a` holds no value. -/
def State.moutByte (s : State) (a : Nat) : Option Byte :=
  match s.mout with
  | some m => (m[a]?).join
  | none => none

/-- `OLEN`: `|MOUT|`, 0 while `MOUT` is absent (R37). -/
def State.moutLength (s : State) : Nat :=
  match s.mout with
  | some m => m.length
  | none => 0

/-- The canonical form of the buffers that are addressed by a number: `CBUF` has `CHUNK_BYTES` bytes (R22). -/
def Memory.wf (s : State) : Bool := s.cbuf.length == s.chunkBytes

/-! ## The result -/

/-- The buffer an operation that succeeded hands over (R44): `XOUT` after an extraction, `MOUT` after a mix. -/
def State.resultBuffer (s : State) : Option Buffer :=
  if s.op.getLsbD 1 then (s.mout.bind writtenBytes).map .bytes else some (.samples s.xout)

/-- The record `(OUTCOME, buffer, TRUNC)` (R44). A failure code comes with no buffer (R148, R165). -/
def State.result (s : State) : OpResult :=
  { outcome := s.outcome
    buffer := if s.outcome = .success then s.resultBuffer else none
    trunc := s.trunc }

/-- What a host gets that takes the result before `DONE`, which R189 leaves undefined: a free buffer, but none with a
failure code (R165), and, DESIGN CHOICE, `OUTCOME` and `TRUNC` as `STATUS` shows them at any time (R35; log 22). -/
def State.earlyResult (s : State) : OpResult :=
  { outcome := s.outcome
    buffer := if isFailure s.outcome then none else Config.freeBuffer s.draws
    trunc := s.trunc }

/-! ## The host's side -/

/-- The host is given something. -/
def State.observe (o : Observation) (s : State) : State :=
  { s with host := { s.host with seen := s.host.seen ++ [o] } }

/-- The reset event (R181) and reset while busy (R183): the Codec is as after reset, no `StreamClose` is issued, and what
the environment and the host hold stays (log 25). -/
def State.resetCodec (s : State) : State :=
  { State.resetWith s.chunkBytes with env := s.env, host := s.host, draws := s.draws }

end Sys2Proof.Machine
end

