-- ==== Sys2Proof/Machine/Extractor.lean ====
section
/-! DEFINITION. The Channel Extractor (40_extractor.md): the commands `extractLeft` and `extractRight`, and the step rules
R100 to R104 of the operation they start. -/

namespace Sys2Proof.Machine

/-- `extractLeft`, command word `0b00` (R98): `START` with `SEL = 0` (R136). The steps below carry it out. -/
def execExtractLeft (s : State) : Host.Outcome State Fault Refusal := whenAtRest s (startExtraction 0b00#2 s)

/-- `extractRight`, command word `0b01` (R99): `START` with `SEL = 1` (R136). The steps below carry it out. -/
def execExtractRight (s : State) : Host.Outcome State Fault Refusal := whenAtRest s (startExtraction 0b01#2 s)

/-- X_OPEN once `d` has been answered (R100): not found is tested before the format (R162); a stream that is found and
refused is closed in the same step. -/
def openWith (d : Descriptor) (s : State) : State :=
  if d.found then
    if formatAccepted d then { s.acquire with ph := .xRead }
    else s.acquire.release.raise .unsupportedFormat
  else s.raise .resourceNotFound

/-- Step X_OPEN (R100). -/
def stepXOpen (s : State) : Host.Outcome State Fault Refusal :=
  .next (openWith s.openAnswer.descriptor s.streamOpen)

/-- X_READ once `a` has been answered (R101): no bytes and `EOS` both mean end of data (R141). -/
def readWith (a : ReadAnswer) (s : State) : State :=
  match a with
  | .eos => { s with ph := .xClose }
  | .data [] => { s with ph := .xClose }
  | .data (b :: bytes) => s.loadChunk (b :: bytes)

/-- Step X_READ (R101). -/
def stepXRead (s : State) : Host.Outcome State Fault Refusal :=
  if Config.chunkOk s.chunkBytes then
    match s.env.stream with
    | some c => .next (readWith (streamAnswer s.chunkBytes s.draws c) (s.streamRead c))
    | none => .fault .noStream
  else .refused .chunkSize

/-- Step X_WALK: decode or skip below the limit (R102), end of chunk at it (R103). -/
def stepXWalk (s : State) : Host.Outcome State Fault Refusal :=
  if s.off < walkLimit s.cnt then
    if onChannel (selector s.op) s.off then
      match s.chunkByte s.off, s.chunkByte (s.off + 1) with
      | some lo, some hi => .next (s.appendSample (decodeSample lo hi))
      | _, _ => .fault .noChunkByte
    else .next s.skipSample
  else .next { s with ph := .xRead }

/-- Step X_CLOSE (R104). -/
def stepXClose (s : State) : Host.Outcome State Fault Refusal := .next s.release.succeed

end Sys2Proof.Machine
end

