-- ==== Sys2Proof/Machine/Mixer.lean ====
section
/-! DEFINITION. The Channel Mixer (41_mixer.md): the command `mix`, and the step rules R122 to R125 of the operation it
starts. -/

namespace Sys2Proof.Machine

/-- `mix`, command word `0b10` (R121): `START` of the Mixer with the operands the host presents (R136). -/
def execMix (s : State) : Host.Outcome State Fault Refusal := whenAtRest s (.next (s.startMix 0b10#2))

/-- Step M_CHECK (R122): the lengths are compared before anything is allocated. -/
def stepMCheck (s : State) : Host.Outcome State Fault Refusal :=
  if s.lbuf.length = s.rbuf.length then .next s.allocate else .next (s.raise .lengthMismatch)

/-- One pair (R124): both Samples and the four bytes of `MOUT` must be there. -/
def writeNextPair (s : State) : Host.Outcome State Fault Refusal :=
  match s.lbuf[s.k]?, s.rbuf[s.k]? with
  | some l, some r =>
    match s.mout with
    | some m => if 4 * s.k + 3 < m.length then .next (s.writePair m l r) else .fault .noOutputByte
    | none => .fault .noOutputByte
  | _, _ => .fault .noOperand

/-- Step M_WRITE: one pair while `K < LEN` (R124), the end when `K = LEN` (R125). -/
def stepMWrite (s : State) : Host.Outcome State Fault Refusal :=
  if s.k < s.len then writeNextPair s
  else if s.k = s.len then .next s.succeed
  else .fault .noRuleEnabled

end Sys2Proof.Machine
end

