-- ==== Sys2Proof/Machine/Reserved.lean ====
section
/-! DEFINITION. The reserved command word `0b11` (30_encoding.md R85, 42_host_and_stream_ops.md R138). -/

namespace Sys2Proof.Machine

/-- `0b11`: "the write starts no unit and changes no state" (R85), whether at rest or busy (R138). That the host may not
issue it is `Instr.wf` (log 2). -/
def execReserved (s : State) : Host.Outcome State Fault Refusal := .next s

end Sys2Proof.Machine
end

