-- ==== Sys2Proof/Machine/Dispatch.lean ====
section
/-! DEFINITION. What each command does: one arm per row of the opcode map (30_encoding.md R83). -/

namespace Sys2Proof.Machine

def exec (i : Instr) (s : State) : Host.Outcome State Fault Refusal :=
  match i with
  | .extractLeft => Sys2Proof.Machine.execExtractLeft s
  | .extractRight => Sys2Proof.Machine.execExtractRight s
  | .mix => Sys2Proof.Machine.execMix s
  | .reserved => Sys2Proof.Machine.execReserved s

end Sys2Proof.Machine
end

