-- ==== Sys2Proof/Machine/Port.lean ====
section
/-! DEFINITION. The registers and events of the host (10_state.md R33 to R37, 42_host_and_stream_ops.md R135, R148), the
phase graph (R150), and which of the two moves next. -/

namespace Sys2Proof.Machine

/-! ## Registers -/

/-- The value a register read gives (R35 to R37); `none` where the register holds no value, that is before the first
operation of its unit. -/
def registerValue (r : Reg) (s : State) : Option Nat :=
  match r with
  | .cmd => none
  | .status => some s.status.toNat
  | .llen => if s.mixed then some s.lbuf.length else none
  | .rlen => if s.mixed then some s.rbuf.length else none
  | .xlen => if s.extracted then some s.xout.length else none
  | .olen => if s.mixed then some s.moutLength else none

/-- A read of a register has no side effect on the Codec (R58). A register that holds no value gives a free one (R43,
log 7; for several instances log 35); a read of `CMD` is refused (R34). -/
def readRegister (r : Reg) (s : State) : Host.Outcome State Fault Refusal :=
  if r = .cmd then .refused .readOfCmd
  else
    match registerValue r s with
    | some v => .next (s.observe (.register r v))
    | none => .next ((s.draw true).observe (.register r (Config.freeRegister s.draws)))

/-- A write of `CMD` is a command (R34); `STATUS` ignores a write (R35), as the read-only lengths do (log 20). -/
def writeRegister (r : Reg) (v : Byte) (s : State) : Host.Outcome State Fault Refusal :=
  if r = .cmd then exec (decodeByte v) s else .next s

/-! ## Events -/

/-- The host takes the result (R148). Before `DONE` the spec defines no buffer: a free one (R189, log 22). -/
def takeResult (s : State) : State :=
  if s.isDone then s.observe (.result s.result)
  else (s.draw true).observe (.result s.earlyResult)

/-- The host presents the operands of mixes to come; those of a running mix are latched (R66). -/
def State.present (l r : List Sample) (s : State) : State := { s with host := { s.host with left := l, right := r } }

/-- One event of the host or the platform. -/
def handle (e : HostEvent) (s : State) : Host.Outcome State Fault Refusal :=
  match e with
  | .write r v => writeRegister r v s
  | .read r => readRegister r s
  | .present l r => .next (s.present l r)
  | .takeResult => .next (takeResult s)
  | .reset => .next s.resetCodec

/-! ## The Codec's own step -/

/-- The phase graph (R150): in every busy phase one step rule; at rest "the Codec simply does nothing" (R178). -/
def codecStep (s : State) : Host.Outcome State Fault Refusal :=
  match s.ph with
  | .idle => .next s
  | .xOpen => stepXOpen s
  | .xRead => stepXRead s
  | .xWalk => stepXWalk s
  | .xClose => stepXClose s
  | .mCheck => stepMCheck s
  | .mWrite => stepMWrite s
  | .done => .next s

/-! ## Which moves next -/

/-- Whether an event lands before the Codec's next step (log 23). At rest the Codec takes no step, so every event
lands. -/
def isDue (t : Timing) (s : State) : Bool :=
  match t with
  | .atRest => s.ph.atRest
  | .after n => n == 0 || s.ph.atRest

/-- The event that lands now, if one does. -/
def State.dueEvent (s : State) : Option HostEvent :=
  match s.host.pending with
  | p :: _ => if isDue p.timing s then some p.event else none
  | [] => none

/-- The first event to come is taken off the list. -/
def State.popEvent (s : State) : State := { s with host := { s.host with pending := s.host.pending.tail } }

/-- One step of the Codec has passed for an event. -/
def Timing.tick : Timing → Timing
  | .atRest => .atRest
  | .after n => .after (n - 1)

def tickPending : List Pending → List Pending
  | [] => []
  | p :: rest => { p with timing := p.timing.tick } :: rest

/-- One step of the Codec has passed for the first event to come. -/
def State.tickEvent (s : State) : State := { s with host := { s.host with pending := tickPending s.host.pending } }

/-- One step of the machine: the event that is due lands, else the Codec takes its own step. -/
def advance (s : State) : Host.Outcome State Fault Refusal :=
  match s.dueEvent with
  | some e => handle e s.popEvent
  | none => codecStep s.tickEvent

/-- The first event to come is a write of the byte `b` to `CMD`, due at once. -/
def State.placeCommand (b : Byte) (s : State) : State :=
  { s with host := { s.host with pending := { timing := .after 0, event := .write .cmd b } :: s.host.pending } }

end Sys2Proof.Machine
end

