-- ==== Sys2Proof/Machine/Step.lean ====
section
/-! DEFINITION. One step of the machine, and the placing of a command where the next step fetches it. -/

namespace Sys2Proof.Machine

def step (s : State) : Host.Outcome State Fault Refusal := advance s

/-- `s` with the command whose bits are `w` as the next event (log 5). -/
def State.withFetchWord (s : State) (nbits w : Nat) : State := s.placeCommand (tableByte nbits w)

end Sys2Proof.Machine
end

