-- ==== Sys2Proof/Machine/Platform.lean ====
section
/-! DEFINITION. A platform of several Codec instances (00_scope.md R12, 60_exceptions.md R175): they share no state, each
has its own host events and its own environment. -/

namespace Sys2Proof.Machine

/-- Instance `i` of the platform takes a step; where there is no such instance nothing happens. DESIGN CHOICE: a refused
or faulting step of one instance stops the whole platform (log 36), and the free values of all instances are drawn from the
same functions, each with the instance's own counter (log 35). -/
def platformStep (p : List State) (i : Nat) : Host.Outcome (List State) Fault Refusal :=
  match p[i]? with
  | none => .next p
  | some s =>
    match step s with
    | .next t => .next (p.set i t)
    | .fault f => .fault f
    | .refused r => .refused r

/-- The instances step in the order of a schedule. -/
def platformRun (p : List State) : List Nat → Host.Outcome (List State) Fault Refusal
  | [] => .next p
  | i :: sched =>
    match platformStep p i with
    | .next q => platformRun q sched
    | .fault f => .fault f
    | .refused r => .refused r

end Sys2Proof.Machine
end

