-- ==== Sys2Proof/Machine/Transaction.lean ====
section
/-! DEFINITION. The transaction level (00_scope.md R8): each operation as a function from its inputs to its result
(40_extractor.md R97, 41_mixer.md R120), how a stream is cut into chunks, and the environment's contract (R145). -/

namespace Sys2Proof.Machine

/-- `extract(d, B, sel)` on success (R97): Sample `j` is the selected channel's Sample of frame `j`, for the
`floor(|B| / 4)` whole frames. No index is out of range, so the default byte is never used. -/
def samplesOf (c : Channel) (b : List Byte) : List Sample :=
  (List.range (b.length / 4)).map fun j =>
    decodeSample (b.getD (4 * j + 2 * selBit c) 0#8) (b.getD (4 * j + 2 * selBit c + 1) 0#8)

/-- `extract(d, B, sel)` (R97). -/
def extract (d : Descriptor) (b : List Byte) (c : Channel) : OpResult :=
  if d.found then
    if formatAccepted d then
      { outcome := .success, buffer := some (.samples (samplesOf c b)), trunc := b.length % 4 != 0 }
    else { outcome := .unsupportedFormat, buffer := none, trunc := false }
  else { outcome := .resourceNotFound, buffer := none, trunc := false }

/-- The frames of two Channel Buffers, pair by pair (R120). -/
def mixBytes : List Sample → List Sample → List Byte
  | l :: ls, r :: rs => encodeFrame l r ++ mixBytes ls rs
  | _, _ => []

/-- `mix(Lb, Rb)` (R120). -/
def mixBuffers (ls rs : List Sample) : OpResult :=
  if ls.length = rs.length then { outcome := .success, buffer := some (.bytes (mixBytes ls rs)), trunc := false }
  else { outcome := .lengthMismatch, buffer := none, trunc := false }

/-! ## Chunks -/

/-- The chunks in which reads of at most `n` bytes deliver one piece; `fuel` is at least the piece's length plus one. -/
def cutPiece (n : Nat) : Nat → List Byte → List (List Byte)
  | 0, _ => []
  | fuel + 1, b => if b.length ≤ n then [b] else b.take n :: cutPiece n fuel (b.drop n)

/-- The non-empty chunks an extraction reads from a stream before its first end-of-data answer (R101, R141). -/
def chunksOf (n : Nat) (segments : List (List Byte)) : List (List Byte) :=
  (segments.flatMap fun b => cutPiece n (b.length + 1) b).takeWhile fun b => !b.isEmpty

/-- What an extraction makes of the chunks it reads, each walked on its own (R117). -/
def samplesOfChunks (c : Channel) (chunks : List (List Byte)) : List Sample := chunks.flatMap (samplesOf c)

/-- `TRUNC` after those chunks (R20): some count was not a multiple of 4. -/
def raggedChunks (chunks : List (List Byte)) : Bool := chunks.any fun b => b.length % 4 != 0

/-- The steps of a successful extraction after `START` (R114). -/
def extractSteps (chunks : List (List Byte)) : Nat :=
  1 + (chunks.length + 1) + (chunks.map fun b => b.length / 4 * 2 + 1).sum + 1

/-- The requests of a successful extraction (R144): an open, one read per chunk and one for the end of data, a close. -/
def extractRequests (n : Nat) (chunks : List (List Byte)) : List Request :=
  .streamOpen :: List.replicate (chunks.length + 1) (.streamRead n) ++ [.streamClose]

/-- The full-chunk contract (R145): every non-empty answer but the last has `n` bytes, and end of data is answered only at
the end (R142). -/
def fullChunks (n : Nat) (c : Session) : Prop :=
  c.endless = false ∧ (∀ b ∈ (chunksOf n c.segments).dropLast, b.length = n) ∧ (chunksOf n c.segments).flatten = c.bytes

/-- The weaker condition that is enough (R145): every count but the last is a multiple of 4. -/
def wholeFrames (n : Nat) (c : Session) : Prop :=
  c.endless = false ∧ (∀ b ∈ (chunksOf n c.segments).dropLast, b.length % 4 = 0) ∧
    (chunksOf n c.segments).flatten = c.bytes

end Sys2Proof.Machine
end

