-- ==== Sys2Proof/Safety.lean ====
section
/-! DEFINITION. What counts as a safe run: the invariants of the state (10_state.md R41 and the rules each clause names),
the duties of a host (42_host_and_stream_ops.md R154), and the phase graph as a relation (R150). -/

namespace Sys2Proof.Safety

open Sys2Proof.Machine

/-- `n` steps of the machine, stopping at the first fault or refusal. -/
def run : Nat → State → Host.Outcome State Fault Refusal
  | 0, s => .next s
  | n + 1, s =>
    match step s with
    | .next t => run n t
    | .fault f => .fault f
    | .refused r => .refused r

/-- The Codec is still busy after each of the first `n` steps, the step counted as 0 included: `DONE` is reached at the
`n`-th step and not before. -/
def busyFor (n : Nat) (s : State) : Prop := ∀ m < n, ∃ v, run m s = .next v ∧ v.busy = true

/-- The unit of the last command is the Mixer: `OP[1]` (R18). -/
def isMix (s : State) : Bool := s.op.getLsbD 1

/-- The phases of an extraction in which the stream is held (R21, R41 c). -/
def holdsStream : Phase → Bool
  | .xRead => true
  | .xWalk => true
  | .xClose => true
  | .idle => false
  | .xOpen => false
  | .mCheck => false
  | .mWrite => false
  | .done => false

/-- What M_WRITE has before it and behind it (R41 e): the lengths agree, `MOUT` is allocated, and the first `4K` bytes are
written, with the bytes the operands give. -/
structure WriteInv (s : State) (m : List (Option Byte)) : Prop where
  allocated : s.mout = some m
  left      : s.len = s.lbuf.length
  right     : s.len = s.rbuf.length
  bound     : s.k ≤ s.len
  size      : m.length = 4 * s.len
  written   : m.take (4 * s.k) = ((mixBytes s.lbuf s.rbuf).take (4 * s.k)).map some

/-- The walk of a chunk (R41 d). -/
structure WalkInv (s : State) : Prop where
  some_bytes : 1 ≤ s.cnt
  fits       : s.cnt ≤ s.chunkBytes
  even       : s.off % 2 = 0
  bound      : s.off ≤ walkLimit s.cnt

/-- The invariants of the state. Clauses of R41 are named by their letter. -/
structure Inv (s : State) : Prop where
  /-- the configuration meets R10 -/
  chunk : Config.chunkOk s.chunkBytes = true
  /-- `CBUF` has `CHUNK_BYTES` bytes (R22) -/
  memory : Memory.wf s = true
  /-- R41 (a), (c), R21: the stream is held exactly in the phases X_READ, X_WALK, X_CLOSE -/
  held : s.held = holdsStream s.ph
  /-- the environment has an open stream while the Codec holds it (R139) -/
  stream : s.held = true → s.env.stream.isSome = true
  /-- R41 (b) -/
  idle : s.ph = .idle → s.outcome = .none
  /-- R41 (b) -/
  done : s.ph = .done → s.outcome ≠ .none
  /-- R41 (b) -/
  busy : s.busy = true → s.outcome = .none
  /-- R41 (d) -/
  walk : s.ph = .xWalk → WalkInv s
  /-- R41 (e) -/
  write : s.ph = .mWrite → ∃ m, WriteInv s m
  /-- R41 (f) -/
  extractFailure : s.outcome = .resourceNotFound ∨ s.outcome = .unsupportedFormat → isMix s = false ∧ s.xout = []
  /-- R41 (f), R29, R158 -/
  mixFailure : s.outcome = .lengthMismatch → isMix s = true ∧ s.mout = none ∧ s.lbuf.length ≠ s.rbuf.length
  /-- R41 (g) -/
  trunc : s.trunc = true → isMix s = false
  /-- the extraction phases run a command of the Extractor (R18) -/
  extractUnit : s.ph = .xOpen ∨ holdsStream s.ph = true → isMix s = false
  /-- the mix phases run the command `mix` (R18) -/
  mixUnit : s.ph = .mCheck ∨ s.ph = .mWrite → isMix s = true
  /-- nothing is appended and no residue seen before the stream is accepted (R136, R164) -/
  opening : s.ph = .xOpen → s.xout = [] ∧ s.trunc = false
  /-- nothing is allocated before the lengths are compared (R122, R136) -/
  checking : s.ph = .mCheck → s.mout = none
  /-- a mix that has succeeded has written every byte of its result (R125, R127) -/
  mixDone : s.outcome = .success → isMix s = true →
    s.lbuf.length = s.rbuf.length ∧ s.mout = some ((mixBytes s.lbuf s.rbuf).map some)
  /-- the length registers of a unit hold a value once it has been started (R36, R37) -/
  started : s.ph ≠ .idle → (if isMix s then s.mixed else s.extracted) = true
  /-- the reserved word never becomes `OP` (R138) -/
  command : s.ph ≠ .idle → s.op ≠ 0b11#2

/-- A host event that keeps the duties of R154: no `0b11` and no `START` while busy, no result taken before `DONE`, no read
of `CMD` (R34). `idle` says that nothing has run since reset: the rest at which the event lands is then `IDLE` and not
`DONE`. A failure code comes with no buffer (R148), so to take the record of R44 then reads neither `XOUT` nor `MOUT`. -/
def keepsDuty (idle : Bool) (p : Pending) : Bool :=
  match p.event with
  | .write r v => r != .cmd || ((decodeByte v).wf && p.timing == .atRest)
  | .read r => r != .cmd
  | .present _ _ => true
  | .takeResult => p.timing == .atRest && !idle
  | .reset => true

/-- Whether nothing has run since reset, once the event has landed: a command ends that (R136), a reset brings it back
(R181). -/
def idleAfter (idle : Bool) (e : HostEvent) : Bool :=
  match e with
  | .write r v => idle && !(r == .cmd && (decodeByte v).wf)
  | .read _ => idle
  | .present _ _ => idle
  | .takeResult => idle
  | .reset => true

/-- The events keep the host's duties one after another. -/
def dutiesFrom : Bool → List Pending → Bool
  | _, [] => true
  | idle, p :: rest => keepsDuty idle p && dutiesFrom (idleAfter idle p.event) rest

/-- Every event to come keeps the host's duties. -/
def hostDuties (s : State) : Bool := dutiesFrom (s.ph == .idle) s.host.pending

/-- No event of the host lands while the Codec is busy: there is none to come, or the first waits for rest (R191). -/
def hostWaits (s : State) : Bool :=
  match s.host.pending with
  | [] => true
  | p :: _ => p.timing == .atRest

/-- The arrows of the phase graph that are the Codec's own steps (R150). -/
def codecArrow : Phase → Phase → Bool
  | .xOpen, .done => true
  | .xOpen, .xRead => true
  | .xRead, .xWalk => true
  | .xRead, .xClose => true
  | .xWalk, .xWalk => true
  | .xWalk, .xRead => true
  | .xClose, .done => true
  | .mCheck, .done => true
  | .mCheck, .mWrite => true
  | .mWrite, .mWrite => true
  | .mWrite, .done => true
  | _, _ => false

/-- The arrows of `START` (R150). -/
def startArrow (p q : Phase) : Bool := p.atRest && (q == .xOpen || q == .mCheck)

end Sys2Proof.Safety
end

