-- ==== Sys2Proof/Certificates/Slice0/Obligations.lean ====
section
/-! DEFINITION. The statements for the provers, each from the rules of spec/ its docstring names. -/

open Sys2Proof Sys2Proof.Machine Sys2Proof.Safety

/-! ## Encodings of data and commands -/

/-- R77: the value of `decode(lo, hi)`, by the two cases of the rule. -/
def Obligations.DecodeSampleValue : Prop :=
  ∀ lo hi : Byte,
    (hi.toNat < 128 → (decodeSample lo hi).toInt = hi.toNat * 256 + lo.toNat) ∧
    (128 ≤ hi.toNat → (decodeSample lo hi).toInt = hi.toNat * 256 + lo.toNat - 65536)

/-- R79: the two bytes of a Sample are bits 7:0 and bits 15:8 of its pattern. -/
def Obligations.EncodeSampleBytes : Prop :=
  ∀ s : Sample,
    (encodeSample s).1.toNat = s.toNat % 256 ∧ (encodeSample s).2.toNat = s.toNat / 256 % 256

/-- R81: decode and encode are inverse to each other, both ways. -/
def Obligations.SampleCodecInverse : Prop :=
  (∀ s : Sample, decodeSample (encodeSample s).1 (encodeSample s).2 = s) ∧
  (∀ lo hi : Byte, encodeSample (decodeSample lo hi) = (lo, hi))

/-- R83: the four words of the opcode map, each written out from the table's bits, with every value of the ignored
upper bits (R34). One byte per command word is the model's choice (log 4). -/
def Obligations.CommandWordsDecode : Prop :=
  ∀ up : BitVec 6,
    decode [up ++ 0b00#2] = .ok (.extractLeft, []) ∧ decode [up ++ 0b01#2] = .ok (.extractRight, []) ∧
    decode [up ++ 0b10#2] = .ok (.mix, []) ∧ decode [up ++ 0b11#2] = .ok (.reserved, [])

/-- Every program decodes back from its bytes; and the bytes of any program, whatever their ignored upper bits, decode
to a program whose words are those bytes' low two bits. One byte per command word is the model's choice (log 4). -/
def Obligations.ProgramDecodeEncode : Prop :=
  (∀ p : List Instr, decodeProgram (encodeProgram p) = p) ∧
  (∀ bs : List Byte, encodeProgram (decodeProgram bs) = bs.map fun b => (cmdBits b).setWidth 8) ∧
  (∀ (i : Instr) (rest : List Byte), decode (encode i ++ rest) = .ok (i, rest))

/-! ## START -/

/-- R136: `START` at rest, for each of the three commands, and all it leaves as it was. With a `CHUNK_BYTES` that breaks
R10 an extraction is refused instead (`BadChunkSizeRefused`). That START of a mix leaves `XOUT`, and START of an
extraction `MOUT`, `LBUF`, `RBUF`, is deduced from R36, R37, R98 and R121 (log 27). What becomes of the model's own field
for R36 and R37, that the unit has been started (log 8), is left out here. -/
def Obligations.StartBeginsOperation : Prop :=
  ∀ s : State, s.ph.atRest = true →
    (Config.chunkOk s.chunkBytes = true →
      (∃ b, exec .extractLeft s = .next
        { s with op := 0b00#2, outcome := .none, trunc := false, xout := [], ph := .xOpen, extracted := b }) ∧
      (∃ b, exec .extractRight s = .next
        { s with op := 0b01#2, outcome := .none, trunc := false, xout := [], ph := .xOpen, extracted := b })) ∧
    (∃ b, exec .mix s = .next
      { s with
        op := 0b10#2, outcome := .none, trunc := false, lbuf := s.host.left, rbuf := s.host.right, mout := none,
        ph := .mCheck, mixed := b })

/-- R137: a command written while busy changes no state. -/
def Obligations.StartWhileBusyChangesNothing : Prop :=
  ∀ (i : Instr) (s : State), s.ph.atRest = false → exec i s = .next s

/-- R138: the reserved command changes no state, at rest or busy; as a command and as any byte written to `CMD` whose low
bits are `0b11`. -/
def Obligations.ReservedChangesNothing : Prop :=
  ∀ s : State, exec .reserved s = .next s ∧ ∀ b : Byte, cmdBits b = 0b11#2 → handle (.write .cmd b) s = .next s

/-- R188: an extraction with a `CHUNK_BYTES` that breaks R10 is refused by name, at START and at a read. That START and
a read are the places is the model's choice (log 16). -/
def Obligations.BadChunkSizeRefused : Prop :=
  ∀ s : State, ¬(4 ≤ s.chunkBytes ∧ s.chunkBytes % 4 = 0) →
    (s.ph.atRest = true →
      exec .extractLeft s = .refused .chunkSize ∧ exec .extractRight s = .refused .chunkSize) ∧
    (s.ph = .xRead → codecStep s = .refused .chunkSize)

/-- The frame of every command (R136 to R138; R98, R121: the state each writes): what `exec` leaves unchanged. That
`extractLeft` and `extractRight` leave `MOUT`, `LBUF`, `RBUF` and that `mix` leaves `XOUT` is deduced (log 27). -/
def Obligations.CommandFrame : Prop :=
  ∀ (i : Instr) (s t : State), exec i s = .next t →
    t.held = s.held ∧ t.cbuf = s.cbuf ∧ t.cnt = s.cnt ∧ t.off = s.off ∧ t.len = s.len ∧ t.k = s.k ∧
    t.chunkBytes = s.chunkBytes ∧ t.env = s.env ∧ t.host = s.host ∧ t.draws = s.draws ∧
    (i ≠ .mix → t.lbuf = s.lbuf ∧ t.rbuf = s.rbuf ∧ t.mixed = s.mixed ∧ t.mout = s.mout ∧
      ∀ a, t.moutByte a = s.moutByte a) ∧
    (i = .mix ∨ i = .reserved → t.xout = s.xout ∧ t.extracted = s.extracted) ∧
    (i = .reserved → t.op = s.op ∧ t.outcome = s.outcome ∧ t.trunc = s.trunc ∧ t.ph = s.ph)

/-! ## The machine's step -/

/-- A write to `CMD` that lands is fetched, decoded and run (R34): the step is `exec` of the decoded command on the
state with the event taken off the host's list. When an event lands is the model's choice (log 23). -/
def Obligations.StepRunsDecodedCommand : Prop :=
  ∀ (s : State) (p : Pending) (rest : List Pending) (b : Byte) (i : Instr),
    s.host.pending = p :: rest → p.event = .write .cmd b → isDue p.timing s = true → decode [b] = .ok (i, []) →
    step s = exec i { s with host := { s.host with pending := rest } }

/-- The placed command is the one the next step runs. The host's list of events is the model's choice (log 5). -/
def Obligations.PlacedWordRuns : Prop :=
  ∀ (s : State) (nbits w : Nat) (i : Instr),
    decodeTableWord nbits w = some i → step (s.withFetchWord nbits w) = exec i s

/-- A step in which no event lands is the Codec's own step rule; the first event to come has waited one step more. When
an event lands is the model's choice (log 23). -/
def Obligations.StepIsCodecStep : Prop :=
  ∀ s : State,
    (hostWaits s = true → s.busy = true → step s = codecStep s) ∧
    (∀ (n : Nat) (e : HostEvent) (rest : List Pending),
      s.host.pending = { timing := .after (n + 1), event := e } :: rest → s.busy = true →
      step s = codecStep
        { s with host := { s.host with pending := { timing := .after n, event := e } :: rest } })

/-- R182, R178: at rest the Codec does nothing until an event comes. That such a step leaves the state as it is is the
model's choice (log 31). -/
def Obligations.AtRestNothingHappens : Prop :=
  ∀ (s : State) (n : Nat), s.ph.atRest = true → s.host.pending = [] → run n s = .next s

/-! ## The Extractor's steps -/

/-- R100: step X_OPEN, its three arms, for the environment's next answer, listed or free. The lists of answers and of
requests are the model's form of the environment (logs 10, 11, 30). -/
def Obligations.OpenStep : Prop :=
  ∀ (s : State) (c : Session) (draws : Nat) (later : List Session), s.ph = .xOpen →
    (s.env.sessions = c :: later ∧ draws = s.draws ∨
      s.env.sessions = [] ∧ later = [] ∧ c = Config.freeSession s.draws ∧ draws = s.draws + 1) →
    (c.descriptor.found = false →
      codecStep s = .next
        { s with
          env := { s.env with sessions := later, requests := s.env.requests ++ [.streamOpen] }
          draws := draws, outcome := .resourceNotFound, ph := .done }) ∧
    (c.descriptor.found = true →
      ¬(c.descriptor.parsable = true ∧ c.descriptor.bits = 16 ∧ c.descriptor.channels = 2) →
      codecStep s = .next
        { s with
          env := { sessions := later, stream := none, requests := s.env.requests ++ [.streamOpen, .streamClose] }
          draws := draws, held := false, outcome := .unsupportedFormat, ph := .done }) ∧
    (c.descriptor.found = true → c.descriptor.parsable = true → c.descriptor.bits = 16 → c.descriptor.channels = 2 →
      codecStep s = .next
        { s with
          env := { sessions := later, stream := some c, requests := s.env.requests ++ [.streamOpen] }
          draws := draws, held := true, ph := .xRead })

/-- R101: step X_READ, both arms, and all it leaves as it was. -/
def Obligations.ReadStep : Prop :=
  ∀ (s : State) (c : Session), s.ph = .xRead → Config.chunkOk s.chunkBytes = true → s.env.stream = some c →
    ∃ d : Nat,
      (streamAnswer s.chunkBytes s.draws c = .eos ∨ streamAnswer s.chunkBytes s.draws c = .data [] →
        codecStep s = .next
          { s with
            env := { s.env with
                     stream := some (streamAfter s.chunkBytes c)
                     requests := s.env.requests ++ [.streamRead s.chunkBytes] }
            draws := d, ph := .xClose }) ∧
      (∀ bytes : List Byte, streamAnswer s.chunkBytes s.draws c = .data bytes → bytes ≠ [] →
        codecStep s = .next
          { s with
            env := { s.env with
                     stream := some (streamAfter s.chunkBytes c)
                     requests := s.env.requests ++ [.streamRead s.chunkBytes] }
            draws := d, cbuf := bytes ++ s.cbuf.drop bytes.length, cnt := bytes.length, off := 0
            trunc := if bytes.length % 4 = 0 then s.trunc else true
            ph := .xWalk })

/-- R88, R141, R58: a read answers at most the bytes asked for, in stream order, and consumes exactly those. The pieces
of a stream are the model's form of the environment (log 10). -/
def Obligations.ReadsDeliverStreamInOrder : Prop :=
  ∀ (n draw : Nat) (c : Session),
    (∀ bytes, streamAnswer n draw c = .data bytes → bytes.length ≤ n) ∧
    (∀ bytes, c.endless = false → streamAnswer n draw c = .data bytes → c.bytes = bytes ++ (streamAfter n c).bytes) ∧
    (streamAnswer n draw c = .eos → c.bytes = [])

/-- R102: step X_WALK below the limit: decode on the selected channel's offsets, skip on the other's; at an even offset
(R24) both bytes are bytes of the current chunk. -/
def Obligations.WalkStep : Prop :=
  ∀ (s : State) (lo hi : Byte), s.ph = .xWalk → s.off < s.cnt - s.cnt % 4 →
    (s.off % 2 = 0 → s.off + 1 < s.cnt) ∧
    (s.off % 4 = (if s.op.getLsbD 0 then 2 else 0) → s.cbuf[s.off]? = some lo → s.cbuf[s.off + 1]? = some hi →
      codecStep s = .next { s with xout := s.xout ++ [decodeSample lo hi], off := s.off + 2 }) ∧
    (s.off % 4 ≠ (if s.op.getLsbD 0 then 2 else 0) → codecStep s = .next { s with off := s.off + 2 })

/-- R103: the end of a chunk; nothing but the phase changes. -/
def Obligations.WalkEndsAtLimit : Prop :=
  ∀ s : State, s.ph = .xWalk → s.cnt - s.cnt % 4 ≤ s.off → codecStep s = .next { s with ph := .xRead }

/-- R104: step X_CLOSE. -/
def Obligations.CloseStep : Prop :=
  ∀ s : State, s.ph = .xClose →
    codecStep s = .next
      { s with
        env := { s.env with stream := none, requests := s.env.requests ++ [.streamClose] }
        held := false, outcome := .success, ph := .done }

/-- R107: the bytes of `CBUF` at or above `CNT` have no influence on a walk step. -/
def Obligations.StaleBytesHaveNoEffect : Prop :=
  ∀ (s : State) (stale : List Byte), s.ph = .xWalk → s.cnt ≤ s.cbuf.length →
    (∀ t, codecStep s = .next t →
      codecStep { s with cbuf := s.cbuf.take s.cnt ++ stale } =
        .next { t with cbuf := s.cbuf.take s.cnt ++ stale }) ∧
    (∀ f, codecStep s ≠ .fault f)

/-! ## The Mixer's steps -/

/-- R122: step M_CHECK, both arms. -/
def Obligations.CheckStep : Prop :=
  ∀ s : State, s.ph = .mCheck →
    (s.lbuf.length ≠ s.rbuf.length →
      codecStep s = .next { s with outcome := .lengthMismatch, ph := .done }) ∧
    (s.lbuf.length = s.rbuf.length →
      codecStep s = .next
        { s with
          len := s.lbuf.length, mout := some (List.replicate (4 * s.lbuf.length) none), k := 0, ph := .mWrite })

/-- R124: step M_WRITE, one pair: the four bytes written at output offset `4K`, every other byte of `MOUT` as it was, and
all else the step leaves unchanged. -/
def Obligations.WriteStep : Prop :=
  ∀ (s : State) (m : List (Option Byte)) (l r : Sample), s.ph = .mWrite → s.k < s.len →
    s.lbuf[s.k]? = some l → s.rbuf[s.k]? = some r → s.mout = some m → m.length = 4 * s.len →
    ∃ m', codecStep s = .next { s with mout := some m', k := s.k + 1 } ∧ m'.length = m.length ∧
      m'[4 * s.k]? = some (some (l.extractLsb' 0 8)) ∧ m'[4 * s.k + 1]? = some (some (l.extractLsb' 8 8)) ∧
      m'[4 * s.k + 2]? = some (some (r.extractLsb' 0 8)) ∧ m'[4 * s.k + 3]? = some (some (r.extractLsb' 8 8)) ∧
      ∀ a, a < 4 * s.k ∨ 4 * s.k + 4 ≤ a → m'[a]? = m[a]?

/-- R125: the end of a mix. -/
def Obligations.WriteEndStep : Prop :=
  ∀ s : State, s.ph = .mWrite → s.k = s.len → codecStep s = .next { s with outcome := .success, ph := .done }

/-- The frame of the Codec's own steps (R18, R26, R36, R98, R121): no step of an operation changes the command, the latched
operands, the parameter or the host's side; an extraction leaves the Mixer's elements and a mix leaves the Extractor's,
every byte of `CBUF` and of `MOUT` included. -/
def Obligations.OperationFrame : Prop :=
  ∀ s t : State, codecStep s = .next t →
    t.op = s.op ∧ t.lbuf = s.lbuf ∧ t.rbuf = s.rbuf ∧ t.chunkBytes = s.chunkBytes ∧ t.host = s.host ∧
    t.extracted = s.extracted ∧ t.mixed = s.mixed ∧
    (s.ph ≠ .mCheck → s.ph ≠ .mWrite → t.len = s.len ∧ t.k = s.k ∧ t.mout = s.mout ∧
      ∀ a, t.moutByte a = s.moutByte a) ∧
    (s.ph = .mCheck ∨ s.ph = .mWrite →
      t.xout = s.xout ∧ t.cbuf = s.cbuf ∧ t.cnt = s.cnt ∧ t.off = s.off ∧ t.trunc = s.trunc ∧ t.held = s.held ∧
      t.env = s.env ∧ t.draws = s.draws) ∧
    (s.ph ≠ .xRead → t.cbuf = s.cbuf ∧ t.cnt = s.cnt ∧ t.trunc = s.trunc) ∧
    (s.ph ≠ .xWalk → t.xout = s.xout)

/-! ## Whole operations -/

/-- R114, R117, R144: an extraction that is accepted, against any finite stream cut in any way: it starts, it is busy
for exactly the step count of R114, and it ends with the Samples of the chunks it read, each walked on its own, with
`TRUNC` as R20 says, the stream released, the requests of R144 issued, and the Mixer's elements untouched. The pieces
of a stream and the list of requests are the model's form (logs 10, 30). That `START` left the Mixer's `LBUF`, `RBUF`
and `MOUT` as they were is deduced (log 27). -/
def Obligations.ExtractionOfAnyChunks : Prop :=
  ∀ (i : Instr) (ch : Channel) (s : State) (c : Session) (later : List Session),
    (i = .extractLeft ∧ ch = .left ∨ i = .extractRight ∧ ch = .right) →
    s.ph.atRest = true → Config.chunkOk s.chunkBytes = true → hostWaits s = true →
    s.env.sessions = c :: later → c.endless = false →
    c.descriptor.found = true → formatAccepted c.descriptor = true →
    ∃ t u, exec i s = .next t ∧
      run (extractSteps (chunksOf s.chunkBytes c.segments)) t = .next u ∧
      busyFor (extractSteps (chunksOf s.chunkBytes c.segments)) t ∧
      u.ph = .done ∧ u.outcome = .success ∧ u.held = false ∧
      u.xout = samplesOfChunks ch (chunksOf s.chunkBytes c.segments) ∧
      u.trunc = raggedChunks (chunksOf s.chunkBytes c.segments) ∧
      u.env.sessions = later ∧
      u.env.requests = s.env.requests ++ extractRequests s.chunkBytes (chunksOf s.chunkBytes c.segments) ∧
      u.host = s.host ∧ u.lbuf = s.lbuf ∧ u.rbuf = s.rbuf ∧ u.mout = s.mout ∧ u.len = s.len ∧ u.k = s.k

/-- R113, under the weaker contract R145 says is enough: the step-level machine computes `extract(d, B, sel)` of R97,
whatever the descriptor, with the stream released at the end. `HELD = 0` at rest is the invariant of R41 (a). -/
def Obligations.ExtractionRefinesTransaction : Prop :=
  ∀ (i : Instr) (ch : Channel) (s : State) (c : Session) (later : List Session),
    (i = .extractLeft ∧ ch = .left ∨ i = .extractRight ∧ ch = .right) →
    s.ph.atRest = true → Config.chunkOk s.chunkBytes = true → hostWaits s = true →
    s.held = false → s.env.sessions = c :: later → wholeFrames s.chunkBytes c →
    ∃ (n : Nat) (t u : State), exec i s = .next t ∧ run n t = .next u ∧ busyFor n t ∧
      u.ph = .done ∧ u.held = false ∧ u.result = extract c.descriptor c.bytes ch

/-- R145: a stream delivered as one piece keeps the full-chunk contract at every allowed chunk size, and the full-chunk
contract gives the weaker one that is enough. So no transaction-level result depends on `CHUNK_BYTES` (R10, R113). The
pieces of a stream are the model's form of the environment (log 10). -/
def Obligations.FullChunksSuffice : Prop :=
  ∀ (n : Nat) (c : Session), Config.chunkOk n = true →
    (∀ b, c.segments = [b] → c.endless = false → fullChunks n c) ∧ (fullChunks n c → wholeFrames n c)

/-- R156: a resource that is not found: one open, no close, no read; the outcome and no buffer. The lists of answers
and of requests are the model's form of the environment (logs 10, 30). -/
def Obligations.MissingResourceFails : Prop :=
  ∀ (i : Instr) (s : State) (c : Session) (later : List Session), (i = .extractLeft ∨ i = .extractRight) →
    s.ph.atRest = true → Config.chunkOk s.chunkBytes = true → hostWaits s = true →
    s.env.sessions = c :: later → c.descriptor.found = false →
    ∃ t u, exec i s = .next t ∧ run 1 t = .next u ∧ u.ph = .done ∧ u.held = s.held ∧ u.xout = [] ∧
      u.result = { outcome := .resourceNotFound, buffer := none, trunc := false } ∧
      u.env.requests = s.env.requests ++ [.streamOpen] ∧ outcomeBits u.outcome = 2#3

/-- R157: a resource that is found and is not parsable 16-bit 2-channel audio: one open and one close in the same step,
no read; the outcome and no buffer. The lists of answers and of requests are the model's form of the environment (logs
10, 30). -/
def Obligations.WrongFormatFails : Prop :=
  ∀ (i : Instr) (s : State) (c : Session) (later : List Session), (i = .extractLeft ∨ i = .extractRight) →
    s.ph.atRest = true → Config.chunkOk s.chunkBytes = true → hostWaits s = true →
    s.env.sessions = c :: later → c.descriptor.found = true →
    (c.descriptor.parsable = false ∨ c.descriptor.bits ≠ 16 ∨ c.descriptor.channels ≠ 2) →
    ∃ t u, exec i s = .next t ∧ run 1 t = .next u ∧ u.ph = .done ∧ u.held = false ∧ u.xout = [] ∧
      u.result = { outcome := .unsupportedFormat, buffer := none, trunc := false } ∧
      u.env.requests = s.env.requests ++ [.streamOpen, .streamClose] ∧ outcomeBits u.outcome = 3#3

/-- R111: a resource that opens with an accepted descriptor and delivers no bytes, by either form of end of data (R141),
gives `Success([])` in three steps with `TRUNC = 0`. -/
def Obligations.EmptyStreamGivesEmptyBuffer : Prop :=
  ∀ (i : Instr) (s : State) (c : Session) (later : List Session), (i = .extractLeft ∨ i = .extractRight) →
    s.ph.atRest = true → Config.chunkOk s.chunkBytes = true → hostWaits s = true →
    s.env.sessions = c :: later → c.endless = false →
    c.descriptor.found = true → c.descriptor.parsable = true → c.descriptor.bits = 16 → c.descriptor.channels = 2 →
    (c.segments = [] ∨ ∃ rest, c.segments = [] :: rest) →
    ∃ t u, exec i s = .next t ∧ run 3 t = .next u ∧ u.ph = .done ∧
      u.result = { outcome := .success, buffer := some (.samples []), trunc := false }

/-- R130, R133: a mix computes `mix(Lb, Rb)` of R120 for every two operands; it ends after exactly `LEN + 2` steps, or
after 1 when the lengths differ, and neither the environment nor any element of the Extractor is touched. That `START`
left the Extractor's `XOUT` as it was is deduced (log 27). -/
def Obligations.MixRefinesTransaction : Prop :=
  ∀ s : State, s.ph.atRest = true → hostWaits s = true →
    ∃ t u n, n = (if s.host.left.length = s.host.right.length then s.host.left.length + 2 else 1) ∧
      exec .mix s = .next t ∧ run n t = .next u ∧ busyFor n t ∧
      u.ph = .done ∧ u.result = mixBuffers s.host.left s.host.right ∧
      u.env = s.env ∧ u.held = s.held ∧ u.host = s.host ∧ u.draws = s.draws ∧
      u.xout = s.xout ∧ u.cbuf = s.cbuf ∧ u.cnt = s.cnt ∧ u.off = s.off

/-- R158: operands of different lengths: one step, no `MOUT`, and the two lengths stay readable. -/
def Obligations.LengthMismatchFails : Prop :=
  ∀ s : State, s.ph.atRest = true → hostWaits s = true → s.host.left.length ≠ s.host.right.length →
    ∃ t u, exec .mix s = .next t ∧ run 1 t = .next u ∧ u.ph = .done ∧ u.mout = none ∧
      u.result = { outcome := .lengthMismatch, buffer := none, trunc := false } ∧ outcomeBits u.outcome = 4#3 ∧
      registerValue .llen u = some s.host.left.length ∧ registerValue .rlen u = some s.host.right.length ∧
      registerValue .olen u = some 0

/-- R75, R120, R129: the bytes of a mix, by index, and their number. -/
def Obligations.MixBytesByIndex : Prop :=
  ∀ ls rs : List Sample, ls.length = rs.length →
    (mixBytes ls rs).length = 4 * ls.length ∧
    ∀ (k : Nat) (l r : Sample), ls[k]? = some l → rs[k]? = some r →
      (mixBytes ls rs)[4 * k]? = some (l.extractLsb' 0 8) ∧
      (mixBytes ls rs)[4 * k + 1]? = some (l.extractLsb' 8 8) ∧
      (mixBytes ls rs)[4 * k + 2]? = some (r.extractLsb' 0 8) ∧
      (mixBytes ls rs)[4 * k + 3]? = some (r.extractLsb' 8 8)

/-- R131: the round trip: for any bytes the mix of their two channels succeeds and gives back their whole frames; where the
length is a multiple of 4, the bytes themselves. -/
def Obligations.RoundTrip : Prop :=
  ∀ b : List Byte,
    mixBuffers (samplesOf .left b) (samplesOf .right b) =
      { outcome := .success, buffer := some (.bytes (b.take (4 * (b.length / 4)))), trunc := false } ∧
    (b.length % 4 = 0 ↔ mixBytes (samplesOf .left b) (samplesOf .right b) = b)

/-- R118: extracting a channel of the bytes of a mix gives that operand back, with `TRUNC = 0`. -/
def Obligations.ExtractInvertsMix : Prop :=
  ∀ (d : Descriptor) (ls rs : List Sample), ls.length = rs.length → d.found = true → formatAccepted d = true →
    extract d (mixBytes ls rs) .left = { outcome := .success, buffer := some (.samples ls), trunc := false } ∧
    extract d (mixBytes ls rs) .right = { outcome := .success, buffer := some (.samples rs), trunc := false }

/-- R109, R110: the two channels of one resource, opened twice with the same answer, have the same length, a quarter of the
stream's. -/
def Obligations.ChannelsHaveEqualLength : Prop :=
  ∀ (s s' : State) (c : Session) (later later' : List Session),
    s.ph.atRest = true → s'.ph.atRest = true → Config.chunkOk s.chunkBytes = true →
    Config.chunkOk s'.chunkBytes = true → hostWaits s = true → hostWaits s' = true →
    s.env.sessions = c :: later → s'.env.sessions = c :: later' → fullChunks s.chunkBytes c →
    fullChunks s'.chunkBytes c → c.descriptor.found = true → formatAccepted c.descriptor = true →
    ∃ n n' t t' u u', exec .extractLeft s = .next t ∧ exec .extractRight s' = .next t' ∧
      run n t = .next u ∧ run n' t' = .next u' ∧ u.ph = .done ∧ u'.ph = .done ∧
      u.outcome = .success ∧ u'.outcome = .success ∧
      u.xout.length = c.bytes.length / 4 ∧ u'.xout.length = c.bytes.length / 4

/-- R195: an extraction against an endless stream never ends. How such a stream is held is the model's choice (log 34).
-/
def Obligations.EndlessStreamNeverEnds : Prop :=
  ∀ (i : Instr) (s : State) (c : Session) (later : List Session), (i = .extractLeft ∨ i = .extractRight) →
    s.ph.atRest = true → Config.chunkOk s.chunkBytes = true → hostWaits s = true →
    s.env.sessions = c :: later → c.endless = true → (∀ b ∈ c.segments, b ≠ []) →
    c.descriptor.found = true → formatAccepted c.descriptor = true →
    ∃ t, exec i s = .next t ∧ ∀ n, busyFor n t

/-- R40: no state carries from one operation to the next: two Codecs at rest that agree on the operands, the
environment and the parameter, and on nothing else, show the same at every moment of the same operation. The counter of
free values agrees too, since a free answer is a function of it (log 9). -/
def Obligations.NoStateCarriesOver : Prop :=
  ∀ (i : Instr) (s s' : State), i ≠ .reserved → s.ph.atRest = true → s'.ph.atRest = true →
    s.host.left = s'.host.left → s.host.right = s'.host.right → s.host.pending = [] → s'.host.pending = [] →
    s.env.sessions = s'.env.sessions → s.draws = s'.draws → s.chunkBytes = s'.chunkBytes → s.held = s'.held →
    ∀ (t t' : State) (n : Nat), exec i s = .next t → exec i s' = .next t' →
      (∀ u, run n t = .next u → ∃ u', run n t' = .next u' ∧ u'.status = u.status ∧ u'.result = u.result)

/-! ## Invariants and whole-machine rules -/

/-- The invariants hold after reset, whatever the allowed chunk size. -/
def Obligations.ResetMeetsInvariant : Prop :=
  Inv State.reset ∧ ∀ n, Config.chunkOk n = true → Inv (State.resetWith n)

/-- R42: what reset leaves in the elements to which the spec gives a reset value, and that the four length registers hold
no value. -/
def Obligations.ResetState : Prop :=
  State.reset.ph = .idle ∧ State.reset.outcome = .none ∧ State.reset.trunc = false ∧ State.reset.held = false ∧
  State.reset.mout = none ∧ State.reset.status = 0x00#8 ∧ registerValue .llen State.reset = none ∧
  registerValue .rlen State.reset = none ∧ registerValue .xlen State.reset = none ∧
  registerValue .olen State.reset = none

/-- R41: every step keeps the invariants: the Codec's own steps, every command, every other event of the host, and
reset. -/
def Obligations.StepKeepsInvariant : Prop :=
  ∀ s t : State, Inv s → step s = .next t → Inv t

/-- R43, R159: no step of a state that keeps the invariants reads an element that holds no value or finds no rule enabled:
none faults. -/
def Obligations.NoStepFaults : Prop :=
  ∀ (s : State) (f : Fault), Inv s → step s ≠ .fault f

/-- R154: with a host that keeps its duties every step answers a next state, the host still keeps them, and a result is
taken only at `DONE`. The host's list of events is the model's form (logs 5, 23). -/
def Obligations.DutifulHostNeverStops : Prop :=
  ∀ s : State, Inv s → hostDuties s = true → 
    (s.dueEvent = some .takeResult → s.ph = .done) ∧ ∃ t, step s = .next t ∧ Inv t ∧ hostDuties t = true

/-- R150: the phase graph is complete: a step follows one of its arrows. -/
def Obligations.PhaseGraphComplete : Prop :=
  ∀ s t : State, step s = .next t →
    match s.dueEvent with
    | none => codecArrow s.ph t.ph = true ∨ s.ph.atRest = true ∧ t.ph = s.ph
    | some (.write .cmd b) => startArrow s.ph t.ph = true ∧ (decodeByte b).wf = true ∨ t.ph = s.ph
    | some .reset => t.ph = .idle
    | some _ => t.ph = s.ph

/-- R150, R179: in every busy phase one step rule is enabled, so an operation waits for nothing. -/
def Obligations.BusyPhasesAdvance : Prop :=
  ∀ s : State, Inv s → s.busy = true → ∃ t, codecStep s = .next t ∧ codecArrow s.ph t.ph = true

/-- R116, R155 to R159, R163: an outcome changes only as the taxonomy says: each failure at its own step and for its own
cause, success at the two ends, `NONE` by a `START` at rest or a reset and by no other event; and a step that writes a code sets
`PH` to `DONE`. -/
def Obligations.OutcomesHaveTheirCauses : Prop :=
  ∀ s t : State, step s = .next t → t.outcome ≠ s.outcome →
    (t.outcome = .resourceNotFound → s.ph = .xOpen ∧ s.openAnswer.descriptor.found = false ∧ t.ph = .done) ∧
    (t.outcome = .unsupportedFormat →
      s.ph = .xOpen ∧ s.openAnswer.descriptor.found = true ∧ formatAccepted s.openAnswer.descriptor = false ∧
        t.ph = .done) ∧
    (t.outcome = .lengthMismatch → s.ph = .mCheck ∧ s.lbuf.length ≠ s.rbuf.length ∧ t.ph = .done) ∧
    (t.outcome = .success → (s.ph = .xClose ∨ s.ph = .mWrite ∧ s.k = s.len) ∧ t.ph = .done) ∧
    (t.outcome = .none →
      s.ph.atRest = true ∧ (t.ph = .xOpen ∨ t.ph = .mCheck) ∧ (∃ b, s.dueEvent = some (.write .cmd b)) ∨
        t.ph = .idle ∧ s.dueEvent = some .reset)

/-- R20: `TRUNC` is set only by a chunk whose count is not a multiple of 4 and cleared only by `START` and reset. -/
def Obligations.TruncChangesOnlyAsRuled : Prop :=
  ∀ s t : State, step s = .next t → t.trunc ≠ s.trunc →
    (t.trunc = true ∧ s.ph = .xRead ∧ t.ph = .xWalk ∧ t.cnt % 4 ≠ 0) ∨
    (t.trunc = false ∧ ((t.ph = .xOpen ∨ t.ph = .mCheck) ∧ s.ph.atRest = true ∨ s.dueEvent = some .reset))

/-- R25, R18, R26: while an operation runs and no reset comes, `XOUT` only grows at its end and the command and the latched
operands stay. -/
def Obligations.RunningOperationKeepsItsInputs : Prop :=
  ∀ s t : State, step s = .next t → s.busy = true → s.dueEvent ≠ some .reset →
    (∃ more, t.xout = s.xout ++ more ∧ more.length ≤ 1) ∧ t.op = s.op ∧ t.lbuf = s.lbuf ∧ t.rbuf = s.rbuf

/-- R141, R143, R144: requests are issued only by the steps that own them: an open in X_OPEN (with a close at once when
the format is refused), a read in X_READ while the stream is held, a close in X_CLOSE while it is held. The list of
requests is the model's own record (log 30). -/
def Obligations.RequestsOnlyFromTheirSteps : Prop :=
  ∀ s t : State, Inv s → step s = .next t →
    t.env.requests = s.env.requests ∨
    (s.ph = .xOpen ∧ t.env.requests = s.env.requests ++ [.streamOpen] ∧ t.ph ≠ .xOpen ∧
      s.openAnswer.descriptor.found = t.held) ∨
    (s.ph = .xOpen ∧ t.env.requests = s.env.requests ++ [.streamOpen, .streamClose] ∧
      t.outcome = .unsupportedFormat ∧ t.held = false) ∨
    (s.ph = .xRead ∧ s.held = true ∧ t.env.requests = s.env.requests ++ [.streamRead s.chunkBytes]) ∨
    (s.ph = .xClose ∧ s.held = true ∧ t.held = false ∧ t.env.requests = s.env.requests ++ [.streamClose])

/-- R127: a mix at `DONE` is all or nothing. -/
def Obligations.MixAllOrNothing : Prop :=
  ∀ s : State, Inv s → s.ph = .done → isMix s = true →
    (s.outcome = .success ∧ s.lbuf.length = s.rbuf.length ∧
      s.result.buffer = some (.bytes (mixBytes s.lbuf s.rbuf))) ∨
    (s.outcome = .lengthMismatch ∧ s.lbuf.length ≠ s.rbuf.length ∧ s.mout = none ∧ s.result.buffer = none)

/-! ## Registers, results and events -/

/-- R35: the fields of `STATUS`; that `BUSY` and `DONE` are never both 1 and both 0 exactly in `IDLE`; that a write of it
is ignored and a read changes nothing but what the host has seen; and its reset value. -/
def Obligations.StatusFields : Prop :=
  ∀ s : State,
    s.status.getLsbD 0 = (s.ph != .idle && s.ph != .done) ∧ s.status.getLsbD 1 = (s.ph == .done) ∧
    s.status.extractLsb' 2 3 = outcomeBits s.outcome ∧ s.status.getLsbD 5 = s.trunc ∧
    s.status.getLsbD 6 = s.held ∧ s.status.getLsbD 7 = false ∧
    ¬(s.status.getLsbD 0 = true ∧ s.status.getLsbD 1 = true) ∧
    ((s.status.getLsbD 0 = false ∧ s.status.getLsbD 1 = false) ↔ s.ph = .idle) ∧
    (∀ v : Byte, handle (.write .status v) s = .next s) ∧
    handle (.read .status) s =
      .next { s with host := { s.host with seen := s.host.seen ++ [.register .status s.status.toNat] } } ∧
    State.reset.status = 0x00#8

/-- R34 to R37, R43: what each register read gives and that a read changes nothing of the Codec. Before the first operation
of its unit a length register gives a free value (log 7); `CMD` is refused. -/
def Obligations.RegisterReads : Prop :=
  ∀ s : State,
    handle (.read .cmd) s = .refused .readOfCmd ∧
    handle (.read .status) s = .next (s.observe (.register .status s.status.toNat)) ∧
    (s.mixed = true →
      handle (.read .llen) s = .next (s.observe (.register .llen s.lbuf.length)) ∧
      handle (.read .rlen) s = .next (s.observe (.register .rlen s.rbuf.length)) ∧
      (s.mout = none → handle (.read .olen) s = .next (s.observe (.register .olen 0))) ∧
      (∀ m, s.mout = some m → handle (.read .olen) s = .next (s.observe (.register .olen m.length)))) ∧
    (s.extracted = true → handle (.read .xlen) s = .next (s.observe (.register .xlen s.xout.length))) ∧
    (s.mixed = false → ∀ r, r = .llen ∨ r = .rlen ∨ r = .olen →
      handle (.read r) s =
        .next ({ s with draws := s.draws + 1 }.observe (.register r (Config.freeRegister s.draws)))) ∧
    (s.extracted = false →
      handle (.read .xlen) s =
        .next ({ s with draws := s.draws + 1 }.observe (.register .xlen (Config.freeRegister s.draws))))

/-- R35, R66, R58: an event that is neither a command nor a reset changes no element of the Codec and nothing of the
environment. That a write of a length register is ignored is deduced (log 20), and that a result taken before `DONE`
leaves the Codec unchanged is the model's choice (log 22). -/
def Obligations.OtherEventsLeaveTheCodec : Prop :=
  ∀ (e : HostEvent) (s t : State), handle e s = .next t → e ≠ .reset → (∀ b, e ≠ .write .cmd b) →
    { s with host := t.host, draws := t.draws } = t ∧ t.host.pending = s.host.pending

/-- R44, R148, R165: at `DONE` the host takes the record of R44; a failure comes with no buffer, a success with one. -/
def Obligations.ResultHandOver : Prop :=
  ∀ s : State, s.ph = .done →
    handle .takeResult s = .next (s.observe (.result s.result)) ∧
    s.result.outcome = s.outcome ∧ s.result.trunc = s.trunc ∧
    (s.outcome ≠ .success → s.result.buffer = none) ∧
    (s.outcome = .success → isMix s = false → s.result.buffer = some (.samples s.xout)) ∧
    (s.outcome = .success → isMix s = true → Inv s →
      ∃ b, s.mout = some (b.map some) ∧ s.result.buffer = some (.bytes b))

/-- R181, R183: reset, at rest or busy: the values of R42, the length registers holding none (R43); no request is issued;
the Codec's parameter and what the environment and the host hold stay (log 25). -/
def Obligations.ResetEvent : Prop :=
  ∀ s : State, ∃ t, handle .reset s = .next t ∧
    t.ph = .idle ∧ t.outcome = .none ∧ t.trunc = false ∧ t.held = false ∧ t.mout = none ∧ t.status = 0x00#8 ∧
    registerValue .llen t = none ∧ registerValue .rlen t = none ∧ registerValue .xlen t = none ∧
    registerValue .olen t = none ∧
    t.env.requests = s.env.requests ∧ t.env = s.env ∧ t.host = s.host ∧ t.chunkBytes = s.chunkBytes

/-- R175, R64: instances do not affect each other: after any schedule each instance is where as many steps of its own
would have taken it alone, as long as none stops. The list of instances and the schedule are the model's form (log 18),
and that a stop of one instance stops the platform is its choice (log 36). -/
def Obligations.InstancesAreIndependent : Prop :=
  ∀ (p q : List State) (sched : List Nat), platformRun p sched = .next q →
    q.length = p.length ∧ ∀ (j : Nat) (s : State), p[j]? = some s →
      ∃ t, q[j]? = some t ∧ run (sched.count j) s = .next t

/-- R165, R148: no failure code ever comes with a buffer: neither in the record a host takes, at `DONE` or too early, in any
state, nor, along any step, in any record it has been given. The record carries `OUTCOME` and `TRUNC` as they are (R44).
Of a record taken before `DONE`, that it carries them so and that its taking leaves the Codec unchanged is the model's
choice, and its buffer is free (log 22). What the host has been given is the model's own list (log 30). -/
def Obligations.NoFailureComesWithBuffer : Prop :=
  (∀ s : State, ∃ (d : Nat) (r : OpResult),
    handle .takeResult s = .next ({ s with draws := d }.observe (.result r)) ∧ r.outcome = s.outcome ∧
    r.trunc = s.trunc ∧ (2 ≤ (outcomeBits s.outcome).toNat → r.buffer = none)) ∧
  (∀ s t : State,
    (∀ r, .result r ∈ s.host.seen → 2 ≤ (outcomeBits r.outcome).toNat → r.buffer = none) → step s = .next t →
    ∀ r, .result r ∈ t.host.seen → 2 ≤ (outcomeBits r.outcome).toNat → r.buffer = none)
end

