-- ==== Sys2Proof/Laws/State.lean ====
section
/-! SUPPORT. What each update of the state does to each field: one lemma per field per update. -/

namespace Sys2Proof.Machine

variable (s : State)

/-! State.raise -/

@[simp] theorem State.raise_ph (c : OutcomeCode) : (State.raise c s).ph = .done := rfl
@[simp] theorem State.raise_op (c : OutcomeCode) : (State.raise c s).op = s.op := rfl
@[simp] theorem State.raise_outcome (c : OutcomeCode) : (State.raise c s).outcome = c := rfl
@[simp] theorem State.raise_trunc (c : OutcomeCode) : (State.raise c s).trunc = s.trunc := rfl
@[simp] theorem State.raise_held (c : OutcomeCode) : (State.raise c s).held = s.held := rfl
@[simp] theorem State.raise_cbuf (c : OutcomeCode) : (State.raise c s).cbuf = s.cbuf := rfl
@[simp] theorem State.raise_cnt (c : OutcomeCode) : (State.raise c s).cnt = s.cnt := rfl
@[simp] theorem State.raise_off (c : OutcomeCode) : (State.raise c s).off = s.off := rfl
@[simp] theorem State.raise_xout (c : OutcomeCode) : (State.raise c s).xout = s.xout := rfl
@[simp] theorem State.raise_lbuf (c : OutcomeCode) : (State.raise c s).lbuf = s.lbuf := rfl
@[simp] theorem State.raise_rbuf (c : OutcomeCode) : (State.raise c s).rbuf = s.rbuf := rfl
@[simp] theorem State.raise_len (c : OutcomeCode) : (State.raise c s).len = s.len := rfl
@[simp] theorem State.raise_k (c : OutcomeCode) : (State.raise c s).k = s.k := rfl
@[simp] theorem State.raise_mout (c : OutcomeCode) : (State.raise c s).mout = s.mout := rfl
@[simp] theorem State.raise_extracted (c : OutcomeCode) : (State.raise c s).extracted = s.extracted := rfl
@[simp] theorem State.raise_mixed (c : OutcomeCode) : (State.raise c s).mixed = s.mixed := rfl
@[simp] theorem State.raise_chunkBytes (c : OutcomeCode) : (State.raise c s).chunkBytes = s.chunkBytes := rfl
@[simp] theorem State.raise_env (c : OutcomeCode) : (State.raise c s).env = s.env := rfl
@[simp] theorem State.raise_host (c : OutcomeCode) : (State.raise c s).host = s.host := rfl
@[simp] theorem State.raise_draws (c : OutcomeCode) : (State.raise c s).draws = s.draws := rfl

/-! State.succeed -/

@[simp] theorem State.succeed_ph : s.succeed.ph = .done := rfl
@[simp] theorem State.succeed_op : s.succeed.op = s.op := rfl
@[simp] theorem State.succeed_outcome : s.succeed.outcome = .success := rfl
@[simp] theorem State.succeed_trunc : s.succeed.trunc = s.trunc := rfl
@[simp] theorem State.succeed_held : s.succeed.held = s.held := rfl
@[simp] theorem State.succeed_cbuf : s.succeed.cbuf = s.cbuf := rfl
@[simp] theorem State.succeed_cnt : s.succeed.cnt = s.cnt := rfl
@[simp] theorem State.succeed_off : s.succeed.off = s.off := rfl
@[simp] theorem State.succeed_xout : s.succeed.xout = s.xout := rfl
@[simp] theorem State.succeed_lbuf : s.succeed.lbuf = s.lbuf := rfl
@[simp] theorem State.succeed_rbuf : s.succeed.rbuf = s.rbuf := rfl
@[simp] theorem State.succeed_len : s.succeed.len = s.len := rfl
@[simp] theorem State.succeed_k : s.succeed.k = s.k := rfl
@[simp] theorem State.succeed_mout : s.succeed.mout = s.mout := rfl
@[simp] theorem State.succeed_extracted : s.succeed.extracted = s.extracted := rfl
@[simp] theorem State.succeed_mixed : s.succeed.mixed = s.mixed := rfl
@[simp] theorem State.succeed_chunkBytes : s.succeed.chunkBytes = s.chunkBytes := rfl
@[simp] theorem State.succeed_env : s.succeed.env = s.env := rfl
@[simp] theorem State.succeed_host : s.succeed.host = s.host := rfl
@[simp] theorem State.succeed_draws : s.succeed.draws = s.draws := rfl

/-! State.startExtract -/

@[simp] theorem State.startExtract_ph (w : CmdWord) : (State.startExtract w s).ph = .xOpen := rfl
@[simp] theorem State.startExtract_op (w : CmdWord) : (State.startExtract w s).op = w := rfl
@[simp] theorem State.startExtract_outcome (w : CmdWord) : (State.startExtract w s).outcome = .none := rfl
@[simp] theorem State.startExtract_trunc (w : CmdWord) : (State.startExtract w s).trunc = false := rfl
@[simp] theorem State.startExtract_held (w : CmdWord) : (State.startExtract w s).held = s.held := rfl
@[simp] theorem State.startExtract_cbuf (w : CmdWord) : (State.startExtract w s).cbuf = s.cbuf := rfl
@[simp] theorem State.startExtract_cnt (w : CmdWord) : (State.startExtract w s).cnt = s.cnt := rfl
@[simp] theorem State.startExtract_off (w : CmdWord) : (State.startExtract w s).off = s.off := rfl
@[simp] theorem State.startExtract_xout (w : CmdWord) : (State.startExtract w s).xout = [] := rfl
@[simp] theorem State.startExtract_lbuf (w : CmdWord) : (State.startExtract w s).lbuf = s.lbuf := rfl
@[simp] theorem State.startExtract_rbuf (w : CmdWord) : (State.startExtract w s).rbuf = s.rbuf := rfl
@[simp] theorem State.startExtract_len (w : CmdWord) : (State.startExtract w s).len = s.len := rfl
@[simp] theorem State.startExtract_k (w : CmdWord) : (State.startExtract w s).k = s.k := rfl
@[simp] theorem State.startExtract_mout (w : CmdWord) : (State.startExtract w s).mout = s.mout := rfl
@[simp] theorem State.startExtract_extracted (w : CmdWord) : (State.startExtract w s).extracted = true := rfl
@[simp] theorem State.startExtract_mixed (w : CmdWord) : (State.startExtract w s).mixed = s.mixed := rfl
@[simp] theorem State.startExtract_chunkBytes (w : CmdWord) : (State.startExtract w s).chunkBytes = s.chunkBytes := rfl
@[simp] theorem State.startExtract_env (w : CmdWord) : (State.startExtract w s).env = s.env := rfl
@[simp] theorem State.startExtract_host (w : CmdWord) : (State.startExtract w s).host = s.host := rfl
@[simp] theorem State.startExtract_draws (w : CmdWord) : (State.startExtract w s).draws = s.draws := rfl

/-! State.startMix -/

@[simp] theorem State.startMix_ph (w : CmdWord) : (State.startMix w s).ph = .mCheck := rfl
@[simp] theorem State.startMix_op (w : CmdWord) : (State.startMix w s).op = w := rfl
@[simp] theorem State.startMix_outcome (w : CmdWord) : (State.startMix w s).outcome = .none := rfl
@[simp] theorem State.startMix_trunc (w : CmdWord) : (State.startMix w s).trunc = false := rfl
@[simp] theorem State.startMix_held (w : CmdWord) : (State.startMix w s).held = s.held := rfl
@[simp] theorem State.startMix_cbuf (w : CmdWord) : (State.startMix w s).cbuf = s.cbuf := rfl
@[simp] theorem State.startMix_cnt (w : CmdWord) : (State.startMix w s).cnt = s.cnt := rfl
@[simp] theorem State.startMix_off (w : CmdWord) : (State.startMix w s).off = s.off := rfl
@[simp] theorem State.startMix_xout (w : CmdWord) : (State.startMix w s).xout = s.xout := rfl
@[simp] theorem State.startMix_lbuf (w : CmdWord) : (State.startMix w s).lbuf = s.host.left := rfl
@[simp] theorem State.startMix_rbuf (w : CmdWord) : (State.startMix w s).rbuf = s.host.right := rfl
@[simp] theorem State.startMix_len (w : CmdWord) : (State.startMix w s).len = s.len := rfl
@[simp] theorem State.startMix_k (w : CmdWord) : (State.startMix w s).k = s.k := rfl
@[simp] theorem State.startMix_mout (w : CmdWord) : (State.startMix w s).mout = none := rfl
@[simp] theorem State.startMix_extracted (w : CmdWord) : (State.startMix w s).extracted = s.extracted := rfl
@[simp] theorem State.startMix_mixed (w : CmdWord) : (State.startMix w s).mixed = true := rfl
@[simp] theorem State.startMix_chunkBytes (w : CmdWord) : (State.startMix w s).chunkBytes = s.chunkBytes := rfl
@[simp] theorem State.startMix_env (w : CmdWord) : (State.startMix w s).env = s.env := rfl
@[simp] theorem State.startMix_host (w : CmdWord) : (State.startMix w s).host = s.host := rfl
@[simp] theorem State.startMix_draws (w : CmdWord) : (State.startMix w s).draws = s.draws := rfl

/-! State.draw -/

@[simp] theorem State.draw_ph (b : Bool) : (State.draw b s).ph = s.ph := rfl
@[simp] theorem State.draw_op (b : Bool) : (State.draw b s).op = s.op := rfl
@[simp] theorem State.draw_outcome (b : Bool) : (State.draw b s).outcome = s.outcome := rfl
@[simp] theorem State.draw_trunc (b : Bool) : (State.draw b s).trunc = s.trunc := rfl
@[simp] theorem State.draw_held (b : Bool) : (State.draw b s).held = s.held := rfl
@[simp] theorem State.draw_cbuf (b : Bool) : (State.draw b s).cbuf = s.cbuf := rfl
@[simp] theorem State.draw_cnt (b : Bool) : (State.draw b s).cnt = s.cnt := rfl
@[simp] theorem State.draw_off (b : Bool) : (State.draw b s).off = s.off := rfl
@[simp] theorem State.draw_xout (b : Bool) : (State.draw b s).xout = s.xout := rfl
@[simp] theorem State.draw_lbuf (b : Bool) : (State.draw b s).lbuf = s.lbuf := rfl
@[simp] theorem State.draw_rbuf (b : Bool) : (State.draw b s).rbuf = s.rbuf := rfl
@[simp] theorem State.draw_len (b : Bool) : (State.draw b s).len = s.len := rfl
@[simp] theorem State.draw_k (b : Bool) : (State.draw b s).k = s.k := rfl
@[simp] theorem State.draw_mout (b : Bool) : (State.draw b s).mout = s.mout := rfl
@[simp] theorem State.draw_extracted (b : Bool) : (State.draw b s).extracted = s.extracted := rfl
@[simp] theorem State.draw_mixed (b : Bool) : (State.draw b s).mixed = s.mixed := rfl
@[simp] theorem State.draw_chunkBytes (b : Bool) : (State.draw b s).chunkBytes = s.chunkBytes := rfl
@[simp] theorem State.draw_env (b : Bool) : (State.draw b s).env = s.env := rfl
@[simp] theorem State.draw_host (b : Bool) : (State.draw b s).host = s.host := rfl
@[simp] theorem State.draw_draws (b : Bool) : (State.draw b s).draws = if b then s.draws + 1 else s.draws := rfl

/-! State.streamOpen -/

@[simp] theorem State.streamOpen_ph : s.streamOpen.ph = s.ph := rfl
@[simp] theorem State.streamOpen_op : s.streamOpen.op = s.op := rfl
@[simp] theorem State.streamOpen_outcome : s.streamOpen.outcome = s.outcome := rfl
@[simp] theorem State.streamOpen_trunc : s.streamOpen.trunc = s.trunc := rfl
@[simp] theorem State.streamOpen_held : s.streamOpen.held = s.held := rfl
@[simp] theorem State.streamOpen_cbuf : s.streamOpen.cbuf = s.cbuf := rfl
@[simp] theorem State.streamOpen_cnt : s.streamOpen.cnt = s.cnt := rfl
@[simp] theorem State.streamOpen_off : s.streamOpen.off = s.off := rfl
@[simp] theorem State.streamOpen_xout : s.streamOpen.xout = s.xout := rfl
@[simp] theorem State.streamOpen_lbuf : s.streamOpen.lbuf = s.lbuf := rfl
@[simp] theorem State.streamOpen_rbuf : s.streamOpen.rbuf = s.rbuf := rfl
@[simp] theorem State.streamOpen_len : s.streamOpen.len = s.len := rfl
@[simp] theorem State.streamOpen_k : s.streamOpen.k = s.k := rfl
@[simp] theorem State.streamOpen_mout : s.streamOpen.mout = s.mout := rfl
@[simp] theorem State.streamOpen_extracted : s.streamOpen.extracted = s.extracted := rfl
@[simp] theorem State.streamOpen_mixed : s.streamOpen.mixed = s.mixed := rfl
@[simp] theorem State.streamOpen_chunkBytes : s.streamOpen.chunkBytes = s.chunkBytes := rfl
@[simp] theorem State.streamOpen_env : s.streamOpen.env = { sessions := s.env.sessions.tail, stream := if s.openAnswer.descriptor.found then some s.openAnswer else s.env.stream, requests := s.env.requests ++ [.streamOpen] } := rfl
@[simp] theorem State.streamOpen_host : s.streamOpen.host = s.host := rfl
@[simp] theorem State.streamOpen_draws : s.streamOpen.draws = if s.env.sessions.isEmpty then s.draws + 1 else s.draws := rfl

/-! State.streamRead -/

@[simp] theorem State.streamRead_ph (c : Session) : (State.streamRead c s).ph = s.ph := rfl
@[simp] theorem State.streamRead_op (c : Session) : (State.streamRead c s).op = s.op := rfl
@[simp] theorem State.streamRead_outcome (c : Session) : (State.streamRead c s).outcome = s.outcome := rfl
@[simp] theorem State.streamRead_trunc (c : Session) : (State.streamRead c s).trunc = s.trunc := rfl
@[simp] theorem State.streamRead_held (c : Session) : (State.streamRead c s).held = s.held := rfl
@[simp] theorem State.streamRead_cbuf (c : Session) : (State.streamRead c s).cbuf = s.cbuf := rfl
@[simp] theorem State.streamRead_cnt (c : Session) : (State.streamRead c s).cnt = s.cnt := rfl
@[simp] theorem State.streamRead_off (c : Session) : (State.streamRead c s).off = s.off := rfl
@[simp] theorem State.streamRead_xout (c : Session) : (State.streamRead c s).xout = s.xout := rfl
@[simp] theorem State.streamRead_lbuf (c : Session) : (State.streamRead c s).lbuf = s.lbuf := rfl
@[simp] theorem State.streamRead_rbuf (c : Session) : (State.streamRead c s).rbuf = s.rbuf := rfl
@[simp] theorem State.streamRead_len (c : Session) : (State.streamRead c s).len = s.len := rfl
@[simp] theorem State.streamRead_k (c : Session) : (State.streamRead c s).k = s.k := rfl
@[simp] theorem State.streamRead_mout (c : Session) : (State.streamRead c s).mout = s.mout := rfl
@[simp] theorem State.streamRead_extracted (c : Session) : (State.streamRead c s).extracted = s.extracted := rfl
@[simp] theorem State.streamRead_mixed (c : Session) : (State.streamRead c s).mixed = s.mixed := rfl
@[simp] theorem State.streamRead_chunkBytes (c : Session) : (State.streamRead c s).chunkBytes = s.chunkBytes := rfl
@[simp] theorem State.streamRead_env (c : Session) : (State.streamRead c s).env = { s.env with stream := some (streamAfter s.chunkBytes c), requests := s.env.requests ++ [.streamRead s.chunkBytes] } := rfl
@[simp] theorem State.streamRead_host (c : Session) : (State.streamRead c s).host = s.host := rfl
@[simp] theorem State.streamRead_draws (c : Session) : (State.streamRead c s).draws = if readsFree c then s.draws + 1 else s.draws := rfl

/-! State.release -/

@[simp] theorem State.release_ph : s.release.ph = s.ph := rfl
@[simp] theorem State.release_op : s.release.op = s.op := rfl
@[simp] theorem State.release_outcome : s.release.outcome = s.outcome := rfl
@[simp] theorem State.release_trunc : s.release.trunc = s.trunc := rfl
@[simp] theorem State.release_held : s.release.held = false := rfl
@[simp] theorem State.release_cbuf : s.release.cbuf = s.cbuf := rfl
@[simp] theorem State.release_cnt : s.release.cnt = s.cnt := rfl
@[simp] theorem State.release_off : s.release.off = s.off := rfl
@[simp] theorem State.release_xout : s.release.xout = s.xout := rfl
@[simp] theorem State.release_lbuf : s.release.lbuf = s.lbuf := rfl
@[simp] theorem State.release_rbuf : s.release.rbuf = s.rbuf := rfl
@[simp] theorem State.release_len : s.release.len = s.len := rfl
@[simp] theorem State.release_k : s.release.k = s.k := rfl
@[simp] theorem State.release_mout : s.release.mout = s.mout := rfl
@[simp] theorem State.release_extracted : s.release.extracted = s.extracted := rfl
@[simp] theorem State.release_mixed : s.release.mixed = s.mixed := rfl
@[simp] theorem State.release_chunkBytes : s.release.chunkBytes = s.chunkBytes := rfl
@[simp] theorem State.release_env : s.release.env = { s.env with stream := none, requests := s.env.requests ++ [.streamClose] } := rfl
@[simp] theorem State.release_host : s.release.host = s.host := rfl
@[simp] theorem State.release_draws : s.release.draws = s.draws := rfl

/-! State.acquire -/

@[simp] theorem State.acquire_ph : s.acquire.ph = s.ph := rfl
@[simp] theorem State.acquire_op : s.acquire.op = s.op := rfl
@[simp] theorem State.acquire_outcome : s.acquire.outcome = s.outcome := rfl
@[simp] theorem State.acquire_trunc : s.acquire.trunc = s.trunc := rfl
@[simp] theorem State.acquire_held : s.acquire.held = true := rfl
@[simp] theorem State.acquire_cbuf : s.acquire.cbuf = s.cbuf := rfl
@[simp] theorem State.acquire_cnt : s.acquire.cnt = s.cnt := rfl
@[simp] theorem State.acquire_off : s.acquire.off = s.off := rfl
@[simp] theorem State.acquire_xout : s.acquire.xout = s.xout := rfl
@[simp] theorem State.acquire_lbuf : s.acquire.lbuf = s.lbuf := rfl
@[simp] theorem State.acquire_rbuf : s.acquire.rbuf = s.rbuf := rfl
@[simp] theorem State.acquire_len : s.acquire.len = s.len := rfl
@[simp] theorem State.acquire_k : s.acquire.k = s.k := rfl
@[simp] theorem State.acquire_mout : s.acquire.mout = s.mout := rfl
@[simp] theorem State.acquire_extracted : s.acquire.extracted = s.extracted := rfl
@[simp] theorem State.acquire_mixed : s.acquire.mixed = s.mixed := rfl
@[simp] theorem State.acquire_chunkBytes : s.acquire.chunkBytes = s.chunkBytes := rfl
@[simp] theorem State.acquire_env : s.acquire.env = s.env := rfl
@[simp] theorem State.acquire_host : s.acquire.host = s.host := rfl
@[simp] theorem State.acquire_draws : s.acquire.draws = s.draws := rfl

/-! State.loadChunk -/

@[simp] theorem State.loadChunk_ph (b : List Byte) : (State.loadChunk b s).ph = .xWalk := rfl
@[simp] theorem State.loadChunk_op (b : List Byte) : (State.loadChunk b s).op = s.op := rfl
@[simp] theorem State.loadChunk_outcome (b : List Byte) : (State.loadChunk b s).outcome = s.outcome := rfl
@[simp] theorem State.loadChunk_trunc (b : List Byte) : (State.loadChunk b s).trunc = truncAfter s.trunc b.length := rfl
@[simp] theorem State.loadChunk_held (b : List Byte) : (State.loadChunk b s).held = s.held := rfl
@[simp] theorem State.loadChunk_cbuf (b : List Byte) : (State.loadChunk b s).cbuf = b ++ s.cbuf.drop b.length := rfl
@[simp] theorem State.loadChunk_cnt (b : List Byte) : (State.loadChunk b s).cnt = b.length := rfl
@[simp] theorem State.loadChunk_off (b : List Byte) : (State.loadChunk b s).off = 0 := rfl
@[simp] theorem State.loadChunk_xout (b : List Byte) : (State.loadChunk b s).xout = s.xout := rfl
@[simp] theorem State.loadChunk_lbuf (b : List Byte) : (State.loadChunk b s).lbuf = s.lbuf := rfl
@[simp] theorem State.loadChunk_rbuf (b : List Byte) : (State.loadChunk b s).rbuf = s.rbuf := rfl
@[simp] theorem State.loadChunk_len (b : List Byte) : (State.loadChunk b s).len = s.len := rfl
@[simp] theorem State.loadChunk_k (b : List Byte) : (State.loadChunk b s).k = s.k := rfl
@[simp] theorem State.loadChunk_mout (b : List Byte) : (State.loadChunk b s).mout = s.mout := rfl
@[simp] theorem State.loadChunk_extracted (b : List Byte) : (State.loadChunk b s).extracted = s.extracted := rfl
@[simp] theorem State.loadChunk_mixed (b : List Byte) : (State.loadChunk b s).mixed = s.mixed := rfl
@[simp] theorem State.loadChunk_chunkBytes (b : List Byte) : (State.loadChunk b s).chunkBytes = s.chunkBytes := rfl
@[simp] theorem State.loadChunk_env (b : List Byte) : (State.loadChunk b s).env = s.env := rfl
@[simp] theorem State.loadChunk_host (b : List Byte) : (State.loadChunk b s).host = s.host := rfl
@[simp] theorem State.loadChunk_draws (b : List Byte) : (State.loadChunk b s).draws = s.draws := rfl

/-! State.skipSample -/

@[simp] theorem State.skipSample_ph : s.skipSample.ph = s.ph := rfl
@[simp] theorem State.skipSample_op : s.skipSample.op = s.op := rfl
@[simp] theorem State.skipSample_outcome : s.skipSample.outcome = s.outcome := rfl
@[simp] theorem State.skipSample_trunc : s.skipSample.trunc = s.trunc := rfl
@[simp] theorem State.skipSample_held : s.skipSample.held = s.held := rfl
@[simp] theorem State.skipSample_cbuf : s.skipSample.cbuf = s.cbuf := rfl
@[simp] theorem State.skipSample_cnt : s.skipSample.cnt = s.cnt := rfl
@[simp] theorem State.skipSample_off : s.skipSample.off = s.off + 2 := rfl
@[simp] theorem State.skipSample_xout : s.skipSample.xout = s.xout := rfl
@[simp] theorem State.skipSample_lbuf : s.skipSample.lbuf = s.lbuf := rfl
@[simp] theorem State.skipSample_rbuf : s.skipSample.rbuf = s.rbuf := rfl
@[simp] theorem State.skipSample_len : s.skipSample.len = s.len := rfl
@[simp] theorem State.skipSample_k : s.skipSample.k = s.k := rfl
@[simp] theorem State.skipSample_mout : s.skipSample.mout = s.mout := rfl
@[simp] theorem State.skipSample_extracted : s.skipSample.extracted = s.extracted := rfl
@[simp] theorem State.skipSample_mixed : s.skipSample.mixed = s.mixed := rfl
@[simp] theorem State.skipSample_chunkBytes : s.skipSample.chunkBytes = s.chunkBytes := rfl
@[simp] theorem State.skipSample_env : s.skipSample.env = s.env := rfl
@[simp] theorem State.skipSample_host : s.skipSample.host = s.host := rfl
@[simp] theorem State.skipSample_draws : s.skipSample.draws = s.draws := rfl

/-! State.appendSample -/

@[simp] theorem State.appendSample_ph (x : Sample) : (State.appendSample x s).ph = s.ph := rfl
@[simp] theorem State.appendSample_op (x : Sample) : (State.appendSample x s).op = s.op := rfl
@[simp] theorem State.appendSample_outcome (x : Sample) : (State.appendSample x s).outcome = s.outcome := rfl
@[simp] theorem State.appendSample_trunc (x : Sample) : (State.appendSample x s).trunc = s.trunc := rfl
@[simp] theorem State.appendSample_held (x : Sample) : (State.appendSample x s).held = s.held := rfl
@[simp] theorem State.appendSample_cbuf (x : Sample) : (State.appendSample x s).cbuf = s.cbuf := rfl
@[simp] theorem State.appendSample_cnt (x : Sample) : (State.appendSample x s).cnt = s.cnt := rfl
@[simp] theorem State.appendSample_off (x : Sample) : (State.appendSample x s).off = s.off + 2 := rfl
@[simp] theorem State.appendSample_xout (x : Sample) : (State.appendSample x s).xout = s.xout ++ [x] := rfl
@[simp] theorem State.appendSample_lbuf (x : Sample) : (State.appendSample x s).lbuf = s.lbuf := rfl
@[simp] theorem State.appendSample_rbuf (x : Sample) : (State.appendSample x s).rbuf = s.rbuf := rfl
@[simp] theorem State.appendSample_len (x : Sample) : (State.appendSample x s).len = s.len := rfl
@[simp] theorem State.appendSample_k (x : Sample) : (State.appendSample x s).k = s.k := rfl
@[simp] theorem State.appendSample_mout (x : Sample) : (State.appendSample x s).mout = s.mout := rfl
@[simp] theorem State.appendSample_extracted (x : Sample) : (State.appendSample x s).extracted = s.extracted := rfl
@[simp] theorem State.appendSample_mixed (x : Sample) : (State.appendSample x s).mixed = s.mixed := rfl
@[simp] theorem State.appendSample_chunkBytes (x : Sample) : (State.appendSample x s).chunkBytes = s.chunkBytes := rfl
@[simp] theorem State.appendSample_env (x : Sample) : (State.appendSample x s).env = s.env := rfl
@[simp] theorem State.appendSample_host (x : Sample) : (State.appendSample x s).host = s.host := rfl
@[simp] theorem State.appendSample_draws (x : Sample) : (State.appendSample x s).draws = s.draws := rfl

/-! State.allocate -/

@[simp] theorem State.allocate_ph : s.allocate.ph = .mWrite := rfl
@[simp] theorem State.allocate_op : s.allocate.op = s.op := rfl
@[simp] theorem State.allocate_outcome : s.allocate.outcome = s.outcome := rfl
@[simp] theorem State.allocate_trunc : s.allocate.trunc = s.trunc := rfl
@[simp] theorem State.allocate_held : s.allocate.held = s.held := rfl
@[simp] theorem State.allocate_cbuf : s.allocate.cbuf = s.cbuf := rfl
@[simp] theorem State.allocate_cnt : s.allocate.cnt = s.cnt := rfl
@[simp] theorem State.allocate_off : s.allocate.off = s.off := rfl
@[simp] theorem State.allocate_xout : s.allocate.xout = s.xout := rfl
@[simp] theorem State.allocate_lbuf : s.allocate.lbuf = s.lbuf := rfl
@[simp] theorem State.allocate_rbuf : s.allocate.rbuf = s.rbuf := rfl
@[simp] theorem State.allocate_len : s.allocate.len = s.lbuf.length := rfl
@[simp] theorem State.allocate_k : s.allocate.k = 0 := rfl
@[simp] theorem State.allocate_mout : s.allocate.mout = some (List.replicate (4 * s.lbuf.length) none) := rfl
@[simp] theorem State.allocate_extracted : s.allocate.extracted = s.extracted := rfl
@[simp] theorem State.allocate_mixed : s.allocate.mixed = s.mixed := rfl
@[simp] theorem State.allocate_chunkBytes : s.allocate.chunkBytes = s.chunkBytes := rfl
@[simp] theorem State.allocate_env : s.allocate.env = s.env := rfl
@[simp] theorem State.allocate_host : s.allocate.host = s.host := rfl
@[simp] theorem State.allocate_draws : s.allocate.draws = s.draws := rfl

/-! State.writePair -/

@[simp] theorem State.writePair_ph (m : List (Option Byte)) (l r : Sample) : (State.writePair m l r s).ph = s.ph := rfl
@[simp] theorem State.writePair_op (m : List (Option Byte)) (l r : Sample) : (State.writePair m l r s).op = s.op := rfl
@[simp] theorem State.writePair_outcome (m : List (Option Byte)) (l r : Sample) : (State.writePair m l r s).outcome = s.outcome := rfl
@[simp] theorem State.writePair_trunc (m : List (Option Byte)) (l r : Sample) : (State.writePair m l r s).trunc = s.trunc := rfl
@[simp] theorem State.writePair_held (m : List (Option Byte)) (l r : Sample) : (State.writePair m l r s).held = s.held := rfl
@[simp] theorem State.writePair_cbuf (m : List (Option Byte)) (l r : Sample) : (State.writePair m l r s).cbuf = s.cbuf := rfl
@[simp] theorem State.writePair_cnt (m : List (Option Byte)) (l r : Sample) : (State.writePair m l r s).cnt = s.cnt := rfl
@[simp] theorem State.writePair_off (m : List (Option Byte)) (l r : Sample) : (State.writePair m l r s).off = s.off := rfl
@[simp] theorem State.writePair_xout (m : List (Option Byte)) (l r : Sample) : (State.writePair m l r s).xout = s.xout := rfl
@[simp] theorem State.writePair_lbuf (m : List (Option Byte)) (l r : Sample) : (State.writePair m l r s).lbuf = s.lbuf := rfl
@[simp] theorem State.writePair_rbuf (m : List (Option Byte)) (l r : Sample) : (State.writePair m l r s).rbuf = s.rbuf := rfl
@[simp] theorem State.writePair_len (m : List (Option Byte)) (l r : Sample) : (State.writePair m l r s).len = s.len := rfl
@[simp] theorem State.writePair_k (m : List (Option Byte)) (l r : Sample) : (State.writePair m l r s).k = s.k + 1 := rfl
@[simp] theorem State.writePair_mout (m : List (Option Byte)) (l r : Sample) : (State.writePair m l r s).mout = some (storeFrame m s.k l r) := rfl
@[simp] theorem State.writePair_extracted (m : List (Option Byte)) (l r : Sample) : (State.writePair m l r s).extracted = s.extracted := rfl
@[simp] theorem State.writePair_mixed (m : List (Option Byte)) (l r : Sample) : (State.writePair m l r s).mixed = s.mixed := rfl
@[simp] theorem State.writePair_chunkBytes (m : List (Option Byte)) (l r : Sample) : (State.writePair m l r s).chunkBytes = s.chunkBytes := rfl
@[simp] theorem State.writePair_env (m : List (Option Byte)) (l r : Sample) : (State.writePair m l r s).env = s.env := rfl
@[simp] theorem State.writePair_host (m : List (Option Byte)) (l r : Sample) : (State.writePair m l r s).host = s.host := rfl
@[simp] theorem State.writePair_draws (m : List (Option Byte)) (l r : Sample) : (State.writePair m l r s).draws = s.draws := rfl

/-! State.observe -/

@[simp] theorem State.observe_ph (o : Observation) : (State.observe o s).ph = s.ph := rfl
@[simp] theorem State.observe_op (o : Observation) : (State.observe o s).op = s.op := rfl
@[simp] theorem State.observe_outcome (o : Observation) : (State.observe o s).outcome = s.outcome := rfl
@[simp] theorem State.observe_trunc (o : Observation) : (State.observe o s).trunc = s.trunc := rfl
@[simp] theorem State.observe_held (o : Observation) : (State.observe o s).held = s.held := rfl
@[simp] theorem State.observe_cbuf (o : Observation) : (State.observe o s).cbuf = s.cbuf := rfl
@[simp] theorem State.observe_cnt (o : Observation) : (State.observe o s).cnt = s.cnt := rfl
@[simp] theorem State.observe_off (o : Observation) : (State.observe o s).off = s.off := rfl
@[simp] theorem State.observe_xout (o : Observation) : (State.observe o s).xout = s.xout := rfl
@[simp] theorem State.observe_lbuf (o : Observation) : (State.observe o s).lbuf = s.lbuf := rfl
@[simp] theorem State.observe_rbuf (o : Observation) : (State.observe o s).rbuf = s.rbuf := rfl
@[simp] theorem State.observe_len (o : Observation) : (State.observe o s).len = s.len := rfl
@[simp] theorem State.observe_k (o : Observation) : (State.observe o s).k = s.k := rfl
@[simp] theorem State.observe_mout (o : Observation) : (State.observe o s).mout = s.mout := rfl
@[simp] theorem State.observe_extracted (o : Observation) : (State.observe o s).extracted = s.extracted := rfl
@[simp] theorem State.observe_mixed (o : Observation) : (State.observe o s).mixed = s.mixed := rfl
@[simp] theorem State.observe_chunkBytes (o : Observation) : (State.observe o s).chunkBytes = s.chunkBytes := rfl
@[simp] theorem State.observe_env (o : Observation) : (State.observe o s).env = s.env := rfl
@[simp] theorem State.observe_host (o : Observation) : (State.observe o s).host = { s.host with seen := s.host.seen ++ [o] } := rfl
@[simp] theorem State.observe_draws (o : Observation) : (State.observe o s).draws = s.draws := rfl

/-! State.present -/

@[simp] theorem State.present_ph (l r : List Sample) : (s.present l r).ph = s.ph := rfl
@[simp] theorem State.present_op (l r : List Sample) : (s.present l r).op = s.op := rfl
@[simp] theorem State.present_outcome (l r : List Sample) : (s.present l r).outcome = s.outcome := rfl
@[simp] theorem State.present_trunc (l r : List Sample) : (s.present l r).trunc = s.trunc := rfl
@[simp] theorem State.present_held (l r : List Sample) : (s.present l r).held = s.held := rfl
@[simp] theorem State.present_cbuf (l r : List Sample) : (s.present l r).cbuf = s.cbuf := rfl
@[simp] theorem State.present_cnt (l r : List Sample) : (s.present l r).cnt = s.cnt := rfl
@[simp] theorem State.present_off (l r : List Sample) : (s.present l r).off = s.off := rfl
@[simp] theorem State.present_xout (l r : List Sample) : (s.present l r).xout = s.xout := rfl
@[simp] theorem State.present_lbuf (l r : List Sample) : (s.present l r).lbuf = s.lbuf := rfl
@[simp] theorem State.present_rbuf (l r : List Sample) : (s.present l r).rbuf = s.rbuf := rfl
@[simp] theorem State.present_len (l r : List Sample) : (s.present l r).len = s.len := rfl
@[simp] theorem State.present_k (l r : List Sample) : (s.present l r).k = s.k := rfl
@[simp] theorem State.present_mout (l r : List Sample) : (s.present l r).mout = s.mout := rfl
@[simp] theorem State.present_extracted (l r : List Sample) : (s.present l r).extracted = s.extracted := rfl
@[simp] theorem State.present_mixed (l r : List Sample) : (s.present l r).mixed = s.mixed := rfl
@[simp] theorem State.present_chunkBytes (l r : List Sample) : (s.present l r).chunkBytes = s.chunkBytes := rfl
@[simp] theorem State.present_env (l r : List Sample) : (s.present l r).env = s.env := rfl
@[simp] theorem State.present_host (l r : List Sample) : (s.present l r).host = { s.host with left := l, right := r } := rfl
@[simp] theorem State.present_draws (l r : List Sample) : (s.present l r).draws = s.draws := rfl

/-! State.popEvent -/

@[simp] theorem State.popEvent_ph : s.popEvent.ph = s.ph := rfl
@[simp] theorem State.popEvent_op : s.popEvent.op = s.op := rfl
@[simp] theorem State.popEvent_outcome : s.popEvent.outcome = s.outcome := rfl
@[simp] theorem State.popEvent_trunc : s.popEvent.trunc = s.trunc := rfl
@[simp] theorem State.popEvent_held : s.popEvent.held = s.held := rfl
@[simp] theorem State.popEvent_cbuf : s.popEvent.cbuf = s.cbuf := rfl
@[simp] theorem State.popEvent_cnt : s.popEvent.cnt = s.cnt := rfl
@[simp] theorem State.popEvent_off : s.popEvent.off = s.off := rfl
@[simp] theorem State.popEvent_xout : s.popEvent.xout = s.xout := rfl
@[simp] theorem State.popEvent_lbuf : s.popEvent.lbuf = s.lbuf := rfl
@[simp] theorem State.popEvent_rbuf : s.popEvent.rbuf = s.rbuf := rfl
@[simp] theorem State.popEvent_len : s.popEvent.len = s.len := rfl
@[simp] theorem State.popEvent_k : s.popEvent.k = s.k := rfl
@[simp] theorem State.popEvent_mout : s.popEvent.mout = s.mout := rfl
@[simp] theorem State.popEvent_extracted : s.popEvent.extracted = s.extracted := rfl
@[simp] theorem State.popEvent_mixed : s.popEvent.mixed = s.mixed := rfl
@[simp] theorem State.popEvent_chunkBytes : s.popEvent.chunkBytes = s.chunkBytes := rfl
@[simp] theorem State.popEvent_env : s.popEvent.env = s.env := rfl
@[simp] theorem State.popEvent_host : s.popEvent.host = { s.host with pending := s.host.pending.tail } := rfl
@[simp] theorem State.popEvent_draws : s.popEvent.draws = s.draws := rfl

/-! State.tickEvent -/

@[simp] theorem State.tickEvent_ph : s.tickEvent.ph = s.ph := rfl
@[simp] theorem State.tickEvent_op : s.tickEvent.op = s.op := rfl
@[simp] theorem State.tickEvent_outcome : s.tickEvent.outcome = s.outcome := rfl
@[simp] theorem State.tickEvent_trunc : s.tickEvent.trunc = s.trunc := rfl
@[simp] theorem State.tickEvent_held : s.tickEvent.held = s.held := rfl
@[simp] theorem State.tickEvent_cbuf : s.tickEvent.cbuf = s.cbuf := rfl
@[simp] theorem State.tickEvent_cnt : s.tickEvent.cnt = s.cnt := rfl
@[simp] theorem State.tickEvent_off : s.tickEvent.off = s.off := rfl
@[simp] theorem State.tickEvent_xout : s.tickEvent.xout = s.xout := rfl
@[simp] theorem State.tickEvent_lbuf : s.tickEvent.lbuf = s.lbuf := rfl
@[simp] theorem State.tickEvent_rbuf : s.tickEvent.rbuf = s.rbuf := rfl
@[simp] theorem State.tickEvent_len : s.tickEvent.len = s.len := rfl
@[simp] theorem State.tickEvent_k : s.tickEvent.k = s.k := rfl
@[simp] theorem State.tickEvent_mout : s.tickEvent.mout = s.mout := rfl
@[simp] theorem State.tickEvent_extracted : s.tickEvent.extracted = s.extracted := rfl
@[simp] theorem State.tickEvent_mixed : s.tickEvent.mixed = s.mixed := rfl
@[simp] theorem State.tickEvent_chunkBytes : s.tickEvent.chunkBytes = s.chunkBytes := rfl
@[simp] theorem State.tickEvent_env : s.tickEvent.env = s.env := rfl
@[simp] theorem State.tickEvent_host : s.tickEvent.host = { s.host with pending := tickPending s.host.pending } := rfl
@[simp] theorem State.tickEvent_draws : s.tickEvent.draws = s.draws := rfl

/-! State.resetCodec: the Codec as after reset, the environment and the host as they were -/

@[simp] theorem State.resetCodec_ph : s.resetCodec.ph = .idle := rfl
@[simp] theorem State.resetCodec_op : s.resetCodec.op = 0#2 := rfl
@[simp] theorem State.resetCodec_outcome : s.resetCodec.outcome = .none := rfl
@[simp] theorem State.resetCodec_trunc : s.resetCodec.trunc = false := rfl
@[simp] theorem State.resetCodec_held : s.resetCodec.held = false := rfl
@[simp] theorem State.resetCodec_cbuf : s.resetCodec.cbuf = List.replicate s.chunkBytes 0#8 := rfl
@[simp] theorem State.resetCodec_cnt : s.resetCodec.cnt = 0 := rfl
@[simp] theorem State.resetCodec_off : s.resetCodec.off = 0 := rfl
@[simp] theorem State.resetCodec_xout : s.resetCodec.xout = [] := rfl
@[simp] theorem State.resetCodec_lbuf : s.resetCodec.lbuf = [] := rfl
@[simp] theorem State.resetCodec_rbuf : s.resetCodec.rbuf = [] := rfl
@[simp] theorem State.resetCodec_len : s.resetCodec.len = 0 := rfl
@[simp] theorem State.resetCodec_k : s.resetCodec.k = 0 := rfl
@[simp] theorem State.resetCodec_mout : s.resetCodec.mout = none := rfl
@[simp] theorem State.resetCodec_extracted : s.resetCodec.extracted = false := rfl
@[simp] theorem State.resetCodec_mixed : s.resetCodec.mixed = false := rfl
@[simp] theorem State.resetCodec_chunkBytes : s.resetCodec.chunkBytes = s.chunkBytes := rfl
@[simp] theorem State.resetCodec_env : s.resetCodec.env = s.env := rfl
@[simp] theorem State.resetCodec_host : s.resetCodec.host = s.host := rfl
@[simp] theorem State.resetCodec_draws : s.resetCodec.draws = s.draws := rfl

/-! The parts of the state that are computed -/

@[simp] theorem State.openAnswer_tickEvent : s.tickEvent.openAnswer = s.openAnswer := rfl
@[simp] theorem State.status_observe (o : Observation) : (State.observe o s).status = s.status := rfl
@[simp] theorem State.result_observe (o : Observation) : (State.observe o s).result = s.result := rfl

end Sys2Proof.Machine
end

