-- ==== Sys2Proof/Laws/Steps.lean ====
section
/-! SUPPORT. What each shared operation and each step can do, said once: if it answers a next state, then one of the listed
cases holds. -/

namespace Sys2Proof.Machine

variable {s t : State}

/-! ## The Extractor -/

theorem openWith_cases (d : Descriptor) (s : State) :
    (d.found = false ∧ openWith d s = s.raise .resourceNotFound) ∨
    (d.found = true ∧ formatAccepted d = false ∧ openWith d s = s.acquire.release.raise .unsupportedFormat) ∨
    (d.found = true ∧ formatAccepted d = true ∧ openWith d s = { s.acquire with ph := .xRead }) := by
  unfold openWith
  cases hf : d.found <;> cases ha : formatAccepted d <;> simp

theorem formatAccepted_iff (d : Descriptor) :
    formatAccepted d = true ↔ d.parsable = true ∧ d.bits = 16 ∧ d.channels = 2 := by
  simp [formatAccepted, Config.sampleBits, Config.channels, and_assoc]

theorem readWith_cases (a : ReadAnswer) (s : State) :
    ((a = .eos ∨ a = .data []) ∧ readWith a s = { s with ph := .xClose }) ∨
    ∃ bytes, bytes ≠ [] ∧ a = .data bytes ∧ readWith a s = s.loadChunk bytes := by
  match a with
  | .eos => exact .inl ⟨.inl rfl, rfl⟩
  | .data [] => exact .inl ⟨.inr rfl, rfl⟩
  | .data (b :: bytes) => exact .inr ⟨b :: bytes, by simp, rfl, rfl⟩

theorem readWith_data {bytes : List Byte} (h : bytes ≠ []) (s : State) :
    readWith (.data bytes) s = s.loadChunk bytes := by
  cases bytes with
  | nil => exact absurd rfl h
  | cons b bytes => rfl

theorem stepXRead_next (h : stepXRead s = .next t) :
    Config.chunkOk s.chunkBytes = true ∧ ∃ c, s.env.stream = some c ∧
      t = readWith (streamAnswer s.chunkBytes s.draws c) (s.streamRead c) := by
  unfold stepXRead at h
  split at h
  · rename_i hc
    split at h
    · rename_i c hs
      exact ⟨hc, c, hs, by simpa using h.symm⟩
    · cases h
  · cases h

theorem stepXRead_of_stream {c : Session} (hc : Config.chunkOk s.chunkBytes = true) (hs : s.env.stream = some c) :
    stepXRead s = .next (readWith (streamAnswer s.chunkBytes s.draws c) (s.streamRead c)) := by
  simp [stepXRead, hc, hs]

theorem stepXWalk_next (h : stepXWalk s = .next t) :
    (s.off < walkLimit s.cnt ∧ onChannel (selector s.op) s.off = true ∧
      ∃ lo hi, s.chunkByte s.off = some lo ∧ s.chunkByte (s.off + 1) = some hi ∧
        t = s.appendSample (decodeSample lo hi)) ∨
    (s.off < walkLimit s.cnt ∧ onChannel (selector s.op) s.off = false ∧ t = s.skipSample) ∨
    (walkLimit s.cnt ≤ s.off ∧ t = { s with ph := .xRead }) := by
  unfold stepXWalk at h
  split at h
  · rename_i hlt
    split at h
    · rename_i hon
      split at h
      · rename_i lo hi hlo hhi
        exact .inl ⟨hlt, hon, lo, hi, hlo, hhi, by simpa using h.symm⟩
      · cases h
    · rename_i hon
      exact .inr (.inl ⟨hlt, by simpa using hon, by simpa using h.symm⟩)
  · rename_i hge
    exact .inr (.inr ⟨by omega, by simpa using h.symm⟩)

theorem stepXWalk_decode {lo hi : Byte} (hlt : s.off < walkLimit s.cnt) (hon : onChannel (selector s.op) s.off = true)
    (hlo : s.chunkByte s.off = some lo) (hhi : s.chunkByte (s.off + 1) = some hi) :
    stepXWalk s = .next (s.appendSample (decodeSample lo hi)) := by
  simp [stepXWalk, hlt, hon, hlo, hhi]

theorem stepXWalk_skip (hlt : s.off < walkLimit s.cnt) (hon : onChannel (selector s.op) s.off = false) :
    stepXWalk s = .next s.skipSample := by
  simp [stepXWalk, hlt, hon]

theorem stepXWalk_end (hge : walkLimit s.cnt ≤ s.off) : stepXWalk s = .next { s with ph := .xRead } := by
  simp [stepXWalk, Nat.not_lt.mpr hge]

/-- An offset of the requested channel is even. -/
theorem even_of_onChannel {c : Channel} {o : Nat} (h : onChannel c o = true) : o % 2 = 0 := by
  cases c <;> simp [onChannel, selBit] at h <;> omega

/-- Both bytes of a Sample below the limit are bytes of the current chunk (R102, R107). -/
theorem succ_lt_of_onChannel {c : Channel} {o n : Nat} (h : onChannel c o = true) (hlt : o < walkLimit n) :
    o + 1 < n := by
  have := even_of_onChannel h
  unfold walkLimit at hlt
  omega

/-! ## The Mixer -/

theorem stepMCheck_next (h : stepMCheck s = .next t) :
    (s.lbuf.length = s.rbuf.length ∧ t = s.allocate) ∨
    (s.lbuf.length ≠ s.rbuf.length ∧ t = s.raise .lengthMismatch) := by
  unfold stepMCheck at h
  split at h
  · rename_i he
    exact .inl ⟨he, by simpa using h.symm⟩
  · rename_i he
    exact .inr ⟨he, by simpa using h.symm⟩

theorem stepMWrite_next (h : stepMWrite s = .next t) :
    (s.k < s.len ∧ ∃ l r m, s.lbuf[s.k]? = some l ∧ s.rbuf[s.k]? = some r ∧ s.mout = some m ∧
      4 * s.k + 3 < m.length ∧ t = s.writePair m l r) ∨
    (s.k = s.len ∧ t = s.succeed) := by
  unfold stepMWrite writeNextPair at h
  split at h
  · rename_i hk
    split at h
    · rename_i l r hl hr
      split at h
      · rename_i m hm
        split at h
        · rename_i hlen
          exact .inl ⟨hk, l, r, m, hl, hr, hm, hlen, by simpa using h.symm⟩
        · cases h
      · cases h
    · cases h
  · split at h
    · rename_i hk
      exact .inr ⟨hk, by simpa using h.symm⟩
    · cases h

theorem stepMWrite_pair {l r : Sample} {m : List (Option Byte)} (hk : s.k < s.len) (hl : s.lbuf[s.k]? = some l)
    (hr : s.rbuf[s.k]? = some r) (hm : s.mout = some m) (hlen : 4 * s.k + 3 < m.length) :
    stepMWrite s = .next (s.writePair m l r) := by
  simp [stepMWrite, writeNextPair, hk, hl, hr, hm, hlen]

theorem stepMWrite_end (hk : s.k = s.len) : stepMWrite s = .next s.succeed := by
  simp [stepMWrite, hk]

/-! ## The phase graph -/

theorem codecStep_xOpen (h : s.ph = .xOpen) :
    codecStep s = .next (openWith s.openAnswer.descriptor s.streamOpen) := by simp [codecStep, h, stepXOpen]

theorem codecStep_xRead (h : s.ph = .xRead) : codecStep s = stepXRead s := by simp [codecStep, h]

theorem codecStep_xWalk (h : s.ph = .xWalk) : codecStep s = stepXWalk s := by simp [codecStep, h]

theorem codecStep_xClose (h : s.ph = .xClose) : codecStep s = .next s.release.succeed := by
  simp [codecStep, h, stepXClose]

theorem codecStep_mCheck (h : s.ph = .mCheck) : codecStep s = stepMCheck s := by simp [codecStep, h]

theorem codecStep_mWrite (h : s.ph = .mWrite) : codecStep s = stepMWrite s := by simp [codecStep, h]

theorem codecStep_atRest (h : s.ph.atRest = true) : codecStep s = .next s := by
  unfold codecStep
  cases hp : s.ph <;> simp [hp, Phase.atRest] at h ⊢

/-- The Codec's own step, by phase (R150). -/
theorem codecStep_next (h : codecStep s = .next t) :
    (s.ph.atRest = true ∧ t = s) ∨
    (s.ph = .xOpen ∧ t = openWith s.openAnswer.descriptor s.streamOpen) ∨
    (s.ph = .xRead ∧ stepXRead s = .next t) ∨
    (s.ph = .xWalk ∧ stepXWalk s = .next t) ∨
    (s.ph = .xClose ∧ t = s.release.succeed) ∨
    (s.ph = .mCheck ∧ stepMCheck s = .next t) ∨
    (s.ph = .mWrite ∧ stepMWrite s = .next t) := by
  unfold codecStep at h
  cases hp : s.ph <;> simp only [hp] at h <;> simp [Phase.atRest]
  · simpa using h.symm
  · simpa [stepXOpen] using h.symm
  · exact h
  · exact h
  · simpa [stepXClose] using h.symm
  · exact h
  · exact h
  · simpa using h.symm

/-! ## Commands and events -/

/-- A command that answers a next state changes nothing, or is `START` at rest (R136 to R138). -/
theorem exec_next {i : Instr} (h : exec i s = .next t) :
    t = s ∧ (s.ph.atRest = false ∨ i = .reserved) ∨
    s.ph.atRest = true ∧
      ((i = .extractLeft ∧ Config.chunkOk s.chunkBytes = true ∧ t = s.startExtract 0b00#2) ∨
       (i = .extractRight ∧ Config.chunkOk s.chunkBytes = true ∧ t = s.startExtract 0b01#2) ∨
       (i = .mix ∧ t = s.startMix 0b10#2)) := by
  cases i <;> simp only [exec, execExtractLeft, execExtractRight, execMix, execReserved, whenAtRest, startExtraction] at h
  case reserved => exact .inl ⟨by simpa using h.symm, .inr rfl⟩
  all_goals
    split at h
    · rename_i ha
      try split at h
      all_goals first
        | cases h; done
        | (right; simp_all)
    · rename_i ha
      exact .inl ⟨by simpa using h.symm, .inl (by simpa using ha)⟩

theorem readRegister_next {r : Reg} (h : readRegister r s = .next t) :
    r ≠ .cmd ∧ ∃ free v, t = (s.draw free).observe (.register r v) := by
  unfold readRegister at h
  split at h
  · cases h
  · rename_i hr
    split at h
    · rename_i v _
      exact ⟨hr, false, v, by simpa [State.draw] using h.symm⟩
    · exact ⟨hr, true, _, by simpa using h.symm⟩

/-- All a taking of the result can do: the host is given one record, with `OUTCOME` and `TRUNC` as they are and no buffer
with a failure code. -/
theorem takeResult_cases (s : State) :
    ∃ free r, takeResult s = (s.draw free).observe (.result r) ∧ r.outcome = s.outcome ∧ r.trunc = s.trunc ∧
      (isFailure s.outcome = true → r.buffer = none) := by
  unfold takeResult
  split
  · exact ⟨false, s.result, rfl, rfl, rfl, fun h => by cases ho : s.outcome <;> simp_all [State.result, isFailure]⟩
  · exact ⟨true, s.earlyResult, rfl, rfl, rfl, fun h => by simp [State.earlyResult, h]⟩

/-- An event of the host: a command, or a reset, or one that changes only what the host holds and the count of free
values. -/
theorem handle_next {e : HostEvent} (h : handle e s = .next t) :
    (∃ b, e = .write .cmd b ∧ exec (decodeByte b) s = .next t) ∨
    (e = .reset ∧ t = s.resetCodec) ∨
    ((∀ b, e ≠ .write .cmd b) ∧ e ≠ .reset ∧
      (t = s ∨ (∃ l r, t = s.present l r) ∨ ∃ free o, t = (s.draw free).observe o)) := by
  cases e with
  | write r v =>
    simp only [handle, writeRegister] at h
    split at h
    · rename_i hr
      exact .inl ⟨v, by rw [hr], h⟩
    · rename_i hr
      refine .inr (.inr ⟨fun b hb => ?_, by simp, .inl (by simpa using h.symm)⟩)
      cases hb
      exact hr rfl
  | read r =>
    obtain ⟨_, free, v, rfl⟩ := readRegister_next h
    exact .inr (.inr ⟨by simp, by simp, .inr (.inr ⟨free, _, rfl⟩)⟩)
  | present l r => exact .inr (.inr ⟨by simp, by simp, .inr (.inl ⟨l, r, by simpa [handle] using h.symm⟩)⟩)
  | takeResult =>
    obtain ⟨free, r, ho, _⟩ := takeResult_cases s
    exact .inr (.inr ⟨by simp, by simp, .inr (.inr ⟨free, _, by simpa [handle, ho] using h.symm⟩)⟩)
  | reset => exact .inr (.inl ⟨rfl, by simpa [handle] using h.symm⟩)

/-- One step of the machine: an event lands, or the Codec takes its own step. -/
theorem step_next (h : step s = .next t) :
    (∃ e, s.dueEvent = some e ∧ handle e s.popEvent = .next t) ∨
    (s.dueEvent = none ∧ codecStep s.tickEvent = .next t) := by
  unfold step advance at h
  split at h
  · rename_i e he
    exact .inl ⟨e, he, h⟩
  · rename_i he
    exact .inr ⟨he, h⟩

theorem step_of_dueEvent_none (h : s.dueEvent = none) : step s = codecStep s.tickEvent := by
  simp [step, advance, h]

theorem step_of_dueEvent_some {e : HostEvent} (h : s.dueEvent = some e) : step s = handle e s.popEvent := by
  simp [step, advance, h]

end Sys2Proof.Machine
end

