-- ==== Sys2Proof/Laws/Buffers.lean ====
section
/-! SUPPORT. The buffers: Samples and their bytes, `CBUF`, `MOUT`, and the chunks of a stream. -/

namespace Sys2Proof.Machine

/-! ## Samples -/

/-- The pattern of a decoded Sample: high byte above low byte (R72, R78 e). -/
theorem decodeSample_eq_append (lo hi : Byte) : decodeSample lo hi = hi ++ lo := by
  apply BitVec.eq_of_getLsbD_eq
  intro i h
  rw [BitVec.getLsbD_append]
  simp only [decodeSample, BitVec.getLsbD_or, BitVec.getLsbD_shiftLeft, BitVec.getLsbD_setWidth, h]
  by_cases h8 : i < 8
  · simp [h8]
  · simp [h8]
    simp [show i - 8 < 16 by omega, show 8 ≤ i by omega]

theorem samplesOf_short (c : Channel) (b : List Byte) (h : b.length < 4) : samplesOf c b = [] := by
  simp [samplesOf, Nat.div_eq_of_lt h]

/-- The Sample of the first frame, then those of the rest. -/
theorem samplesOf_cons (c : Channel) (b0 b1 b2 b3 : Byte) (b : List Byte) :
    samplesOf c (b0 :: b1 :: b2 :: b3 :: b) =
      (match c with
        | .left => decodeSample b0 b1
        | .right => decodeSample b2 b3) :: samplesOf c b := by
  have hn : (b0 :: b1 :: b2 :: b3 :: b).length / 4 = b.length / 4 + 1 := by simp; omega
  simp only [samplesOf, hn, List.range_succ_eq_map, List.map_cons, List.map_map]
  congr 1
  · cases c <;> rfl
  · apply List.map_congr_left
    intro j _
    simp only [Function.comp_apply]
    rw [show 4 * (j + 1) + 2 * selBit c = (4 * j + 2 * selBit c) + 4 by omega,
      show 4 * j + 2 * selBit c + 4 + 1 = (4 * j + 2 * selBit c + 1) + 4 by omega]
    rfl

/-! ## `CBUF` -/

/-- After a chunk has arrived the bytes of `CBUF` that may be read are its bytes, whatever was there before (R107). -/
theorem chunkByte_loadChunk (s : State) (b : List Byte) (i : Nat) : (s.loadChunk b).chunkByte i = b[i]? := by
  show (if i < b.length then (b ++ s.cbuf.drop b.length)[i]? else none) = b[i]?
  by_cases hi : i < b.length
  · rw [if_pos hi, List.getElem?_append_left hi]
  · rw [if_neg hi, List.getElem?_eq_none (by omega)]

/-! ## `MOUT` -/

theorem storeFrame_length (m : List (Option Byte)) (k : Nat) (l r : Sample) :
    (storeFrame m k l r).length = m.length := by
  simp [storeFrame]

/-- The frame of the four writes of a pair: every byte outside `4k` to `4k+3` is as it was (R124). -/
theorem storeFrame_outside (m : List (Option Byte)) (k : Nat) (l r : Sample) {a : Nat}
    (h : a < 4 * k ∨ 4 * k + 4 ≤ a) : (storeFrame m k l r)[a]? = m[a]? := by
  simp only [storeFrame]
  rw [List.getElem?_set_ne (by omega), List.getElem?_set_ne (by omega), List.getElem?_set_ne (by omega),
    List.getElem?_set_ne (by omega)]

/-- The first `k + 1` frames of `MOUT` after pair `k` has been written. -/
theorem storeFrame_take (m : List (Option Byte)) (k : Nat) (l r : Sample) (h : 4 * k + 3 < m.length) :
    (storeFrame m k l r).take (4 * (k + 1)) = m.take (4 * k) ++ (encodeFrame l r).map some := by
  apply List.ext_getElem?
  intro a
  by_cases ha : a < 4 * k
  · rw [List.getElem?_take_of_lt (by omega), List.getElem?_append_left (by simp; omega), List.getElem?_take_of_lt ha,
      storeFrame_outside _ _ _ _ (.inl ha)]
  · rw [List.getElem?_append_right (by simp; omega)]
    have hl : (m.take (4 * k)).length = 4 * k := by simp; omega
    rw [hl]
    by_cases hb : a < 4 * (k + 1)
    · rw [List.getElem?_take_of_lt hb]
      obtain rfl | rfl | rfl | rfl : a = 4 * k ∨ a = 4 * k + 1 ∨ a = 4 * k + 2 ∨ a = 4 * k + 3 := by omega
      all_goals simp [storeFrame, encodeFrame, List.getElem?_set]
      all_goals omega
    · rw [List.getElem?_eq_none (by simp; omega), List.getElem?_eq_none (by simp [encodeFrame]; omega)]

theorem writtenBytes_map (b : List Byte) : writtenBytes (b.map some) = some b := by
  induction b with
  | nil => rfl
  | cons b bs ih => simp [writtenBytes, ih]

/-- From offset `4k` on the bytes of a mix are frame `k` and what follows it. -/
theorem mixBytes_drop : ∀ (k : Nat) (ls rs : List Sample) (l r : Sample), ls[k]? = some l → rs[k]? = some r →
    (mixBytes ls rs).drop (4 * k) = encodeFrame l r ++ mixBytes (ls.drop (k + 1)) (rs.drop (k + 1))
  | 0, l' :: ls, r' :: rs, l, r, hl, hr => by
    simp at hl hr
    subst hl hr
    simp [mixBytes]
  | k + 1, l' :: ls, r' :: rs, l, r, hl, hr => by
    have ih := mixBytes_drop k ls rs l r (by simpa using hl) (by simpa using hr)
    rw [show 4 * (k + 1) = 4 + 4 * k by omega, mixBytes, ← List.drop_drop]
    simpa [encodeFrame] using ih
  | _, [], _, _, _, hl, _ => by simp at hl
  | _, _ :: _, [], _, _, _, hr => by simp at hr

/-! ## Chunks -/

/-- A read answers at most the bytes it asks for (R88). -/
theorem streamAnswer_length {n draw : Nat} {c : Session} {bytes : List Byte}
    (h : streamAnswer n draw c = .data bytes) : bytes.length ≤ n := by
  unfold streamAnswer at h
  split at h
  · split at h
    · simp only [ReadAnswer.data.injEq] at h
      subst h
      simp [freeChunk]
    · cases h
  · simp only [ReadAnswer.data.injEq] at h
    subst h
    simp

/-- The fuel of `cutPiece` does not matter once it exceeds the piece's length. -/
theorem cutPiece_fuel (n : Nat) (hn : 0 < n) : ∀ (f g : Nat) (b : List Byte), b.length < f → b.length < g →
    cutPiece n f b = cutPiece n g b
  | 0, _, _, h, _ => absurd h (by omega)
  | _, 0, _, _, h => absurd h (by omega)
  | f + 1, g + 1, b, h1, h2 => by
    simp only [cutPiece]
    split
    · rfl
    · rw [cutPiece_fuel n hn f g (b.drop n) (by simp; omega) (by simp; omega)]

/-- The chunks of a stream, one read at a time. -/
theorem chunksOf_cons (n : Nat) (hn : 0 < n) (seg : List Byte) (rest : List (List Byte)) :
    chunksOf n (seg :: rest) =
      if seg = [] then []
      else if seg.length ≤ n then seg :: chunksOf n rest
      else seg.take n :: chunksOf n (seg.drop n :: rest) := by
  have e : cutPiece n (seg.length + 1) seg =
      if seg.length ≤ n then [seg] else seg.take n :: cutPiece n ((seg.drop n).length + 1) (seg.drop n) := by
    conv_lhs => rw [cutPiece]
    split
    · rfl
    · rw [cutPiece_fuel n hn seg.length ((seg.drop n).length + 1) _ (by simp; omega) (by omega)]
  simp only [chunksOf, List.flatMap_cons]
  rw [e]
  by_cases hs : seg = []
  · subst hs
    simp
  · rw [if_neg hs]
    split
    · simp [hs]
    · have hne : seg.take n ≠ [] := by simp [hs]; omega
      simp only [List.cons_append, List.takeWhile_cons]
      simp [hne]

end Sys2Proof.Machine
end

