-- ==== Sys2Proof/Laws/Memory.lean ====
section
/-! SUPPORT. The canonical form of the buffers: `CBUF` keeps its `CHUNK_BYTES` bytes through every operation (R22), and
reset gives it. -/

namespace Sys2Proof.Machine

variable {s t : State}

theorem memory_wf_iff : Memory.wf s = true ↔ s.cbuf.length = s.chunkBytes := by simp [Memory.wf]

theorem reset_memory_wf : Memory.wf State.reset = true := by simp [memory_wf_iff, State.reset, State.resetWith]

theorem resetCodec_memory_wf (s : State) : Memory.wf s.resetCodec = true := by simp [memory_wf_iff]

/-- The arrival of a chunk that fits keeps the form. -/
theorem loadChunk_memory_wf {b : List Byte} (h : Memory.wf s = true) (hb : b.length ≤ s.chunkBytes) :
    Memory.wf (s.loadChunk b) = true := by
  rw [memory_wf_iff] at h ⊢
  simp
  omega

/-- Every step of the Codec keeps the form. -/
theorem codecStep_memory_wf (h : Memory.wf s = true) (he : codecStep s = .next t) : Memory.wf t = true := by
  rcases codecStep_next he with ⟨_, rfl⟩ | ⟨_, rfl⟩ | ⟨_, he⟩ | ⟨_, he⟩ | ⟨_, rfl⟩ | ⟨_, he⟩ | ⟨_, he⟩
  · exact h
  · rcases openWith_cases s.openAnswer.descriptor s.streamOpen with ⟨_, e⟩ | ⟨_, _, e⟩ | ⟨_, _, e⟩ <;> rw [e] <;>
      exact h
  · obtain ⟨_, c, _, rfl⟩ := stepXRead_next he
    rcases readWith_cases (streamAnswer s.chunkBytes s.draws c) (s.streamRead c) with ⟨_, e⟩ | ⟨bytes, _, ha, e⟩ <;>
      rw [e]
    · exact h
    · exact loadChunk_memory_wf (s := s.streamRead c) h (streamAnswer_length ha)
  · rcases stepXWalk_next he with ⟨_, _, _, _, _, _, rfl⟩ | ⟨_, _, rfl⟩ | ⟨_, rfl⟩ <;> exact h
  · exact h
  · rcases stepMCheck_next he with ⟨_, rfl⟩ | ⟨_, rfl⟩ <;> exact h
  · rcases stepMWrite_next he with ⟨_, _, _, _, _, _, _, _, rfl⟩ | ⟨_, rfl⟩ <;> exact h

/-- Every event of the host keeps the form. -/
theorem handle_memory_wf {e : HostEvent} (h : Memory.wf s = true) (he : handle e s = .next t) : Memory.wf t = true := by
  rcases handle_next he with ⟨b, _, he⟩ | ⟨_, rfl⟩ | ⟨_, _, rfl | ⟨l, r, rfl⟩ | ⟨f, o, rfl⟩⟩
  · rcases exec_next he with ⟨rfl, _⟩ | ⟨_, ⟨_, _, rfl⟩ | ⟨_, _, rfl⟩ | ⟨_, rfl⟩⟩ <;> exact h
  · exact resetCodec_memory_wf s
  all_goals exact h

theorem step_memory_wf (h : Memory.wf s = true) (hs : step s = .next t) : Memory.wf t = true := by
  rcases step_next hs with ⟨e, _, he⟩ | ⟨_, he⟩
  · exact handle_memory_wf (s := s.popEvent) h he
  · exact codecStep_memory_wf (s := s.tickEvent) h he

end Sys2Proof.Machine
end

