-- ==== Sys2Proof/Laws/PerInstr.lean ====
section
/-! SUPPORT. Statements made per command: its encoding as one byte (30_encoding.md R82, R83). -/

namespace Sys2Proof.Laws.Encoding

/-- The command is one byte whose low bits are its word, and that byte decodes to it whatever follows; a program of it
alone is accepted exactly when the command is well formed. -/
def Statement (i : Instr) : Prop :=
  (encode i).length = 1 ∧ cmdBits (encodeByte i) = encodeWord i ∧ decodeWord (encodeWord i) = i ∧
    (∀ rest, decode (encode i ++ rest) = .ok (i, rest)) ∧ Instr.programWf [i] = i.wf

theorem extractLeft : Statement .extractLeft := ⟨rfl, by decide, rfl, fun _ => rfl, rfl⟩
theorem extractRight : Statement .extractRight := ⟨rfl, by decide, rfl, fun _ => rfl, rfl⟩
theorem mix : Statement .mix := ⟨rfl, by decide, rfl, fun _ => rfl, rfl⟩
theorem reserved : Statement .reserved := ⟨rfl, by decide, rfl, fun _ => rfl, rfl⟩

end Sys2Proof.Laws.Encoding
end

