-- ==== Sys2Proof/Laws/Runs.lean ====
section
/-! SUPPORT. Runs of many steps: composition, runs that no event of the host interrupts, and what the walk of one frame and
of one chunk does. -/

namespace Sys2Proof.Safety

open Sys2Proof.Machine

/-! ## Steps without an event -/

/-- An event that waits for rest is not changed by the Codec's steps. -/
theorem tick_of_waits {s : State} (h : hostWaits s = true) : s.tickEvent = s := by
  unfold hostWaits at h
  have : tickPending s.host.pending = s.host.pending := by
    split at h
    · rename_i hp; rw [hp]; rfl
    · rename_i p rest hp
      rw [hp]
      obtain ⟨tm, e⟩ := p
      have : tm = .atRest := by simpa using h
      subst this; rfl
  simp [State.tickEvent, this]

theorem due_of_waits {s : State} (h : hostWaits s = true) (hb : s.busy = true) : s.dueEvent = none := by
  unfold hostWaits at h
  unfold State.dueEvent
  split at h
  · rename_i hp; rw [hp]
  · rename_i p rest hp
    have : p.timing = .atRest := by simpa using h
    rw [hp]
    simp [isDue, this]
    simpa [State.busy] using hb

/-- While the Codec is busy and the host waits, a step is the Codec's own. -/
theorem step_busy {s : State} (h : hostWaits s = true) (hb : s.busy = true) : step s = codecStep s := by
  rw [step_of_dueEvent_none (due_of_waits h hb), tick_of_waits h]

/-! ## The host's duties -/

@[simp] theorem dutiesFrom_nil (idle : Bool) : dutiesFrom idle [] = true := rfl

@[simp] theorem dutiesFrom_cons (idle : Bool) (p : Pending) (rest : List Pending) :
    dutiesFrom idle (p :: rest) = (keepsDuty idle p && dutiesFrom (idleAfter idle p.event) rest) := rfl

/-- The passing of a step breaks no duty. -/
@[simp] theorem keepsDuty_tick (idle : Bool) (p : Pending) :
    keepsDuty idle { p with timing := p.timing.tick } = keepsDuty idle p := by
  have : (p.timing.tick == .atRest) = (p.timing == .atRest) := by cases p.timing <;> rfl
  simp only [keepsDuty, this]

/-- The passing of a step breaks no duty of the events to come. -/
@[simp] theorem dutiesFrom_tickPending (idle : Bool) (l : List Pending) :
    dutiesFrom idle (tickPending l) = dutiesFrom idle l := by
  cases l <;> simp [tickPending]

/-! ## Runs -/

theorem run_succ_next {n : Nat} {s t : State} (h : run (n+1) s = .next t) : ∃ m, step s = .next m ∧ run n m = .next t := by
  simp only [run] at h
  split at h
  · rename_i m hm; exact ⟨m, hm, h⟩
  · cases h
  · cases h

theorem run_add (a b : Nat) (s t : State) (h : run a s = .next t) : run (a + b) s = run b t := by
  induction a generalizing s with
  | zero => simp only [run] at h; cases h; simp
  | succ a ih =>
    obtain ⟨m, hm, hr⟩ := run_succ_next h
    rw [show a + 1 + b = (a + b) + 1 by omega]
    simp only [run, hm]
    exact ih m hr

/-- `t` is reached from `s` in exactly `n` steps, through busy states only. -/
structure Reach (n : Nat) (s t : State) : Prop where
  run : run n s = .next t
  busy : busyFor n s

theorem Reach.zero (s : State) : Reach 0 s s := ⟨rfl, fun _ h => absurd h (by omega)⟩

theorem Reach.step {n : Nat} {s t u : State} (hw : hostWaits s = true) (hb : s.busy = true) (hs : codecStep s = .next t)
    (h : Reach n t u) : Reach (n + 1) s u := by
  have hst : Machine.step s = .next t := by rw [step_busy hw hb, hs]
  refine ⟨by simp only [Safety.run, hst, h.run], fun m hm => ?_⟩
  cases m with
  | zero => exact ⟨s, rfl, hb⟩
  | succ m =>
    obtain ⟨v, h1, h2⟩ := h.busy m (by omega)
    exact ⟨v, by simp only [Safety.run, hst, h1], h2⟩

theorem Reach.trans {a b : Nat} {s t u : State} (h : Reach a s t) (h' : Reach b t u) : Reach (a + b) s u := by
  refine ⟨by rw [run_add _ _ _ _ h.run, h'.run], fun m hm => ?_⟩
  by_cases hma : m < a
  · exact h.busy m hma
  · obtain ⟨v, h1, h2⟩ := h'.busy (m - a) (by omega)
    refine ⟨v, ?_, h2⟩
    rw [show m = a + (m - a) by omega, run_add _ _ _ _ h.run, h1]

theorem Reach.one {s t : State} (hw : hostWaits s = true) (hb : s.busy = true) (hs : codecStep s = .next t) : Reach 1 s t :=
  Reach.step hw hb hs (Reach.zero t)

theorem busy_of {s : State} (h : s.ph.atRest = false) : s.busy = true := by simp [State.busy, h]

/-! ## The walk -/

/-- The two walk steps of one frame append the selected channel's Sample (R102). -/
theorem frame_reach {s : State} {j : Nat} {chunk junk : List Byte} (hw : hostWaits s = true) (hp : s.ph = .xWalk)
    (hb : s.cbuf = chunk ++ junk) (hc : s.cnt = chunk.length) (ho : s.off = 4 * j) (hj : j < chunk.length / 4) :
    Reach 2 s { s with
      off := 4 * (j + 1)
      xout := s.xout ++ [decodeSample (chunk.getD (4 * j + 2 * selBit (selector s.op)) 0#8)
        (chunk.getD (4 * j + 2 * selBit (selector s.op) + 1) 0#8)] } := by
  have hlim : walkLimit s.cnt = 4 * (chunk.length / 4) := by unfold walkLimit; omega
  have hbusy : s.busy = true := busy_of (by rw [hp]; rfl)
  have byte : ∀ (o off : Nat) (x), o < chunk.length → ({ s with off := off, xout := x } : State).chunkByte o = some (chunk.getD o 0#8) := by
    intro o off x ho'
    simp [State.chunkByte, hb, hc, ho', List.getElem?_append_left ho']
  cases hsel : selector s.op with
  | left =>
    have h1 : codecStep s = .next (s.appendSample (decodeSample (chunk.getD (4 * j) 0#8) (chunk.getD (4 * j + 1) 0#8))) := by
      rw [codecStep_xWalk hp]
      refine stepXWalk_decode (by omega) (by rw [hsel]; simp [onChannel, selBit]; omega) ?_ ?_
      · rw [ho]; exact byte _ s.off s.xout (by omega)
      · rw [ho]; exact byte _ s.off s.xout (by omega)
    refine Reach.step hw hbusy h1 (Reach.one hw (by exact hbusy) ?_)
    rw [codecStep_xWalk (by exact hp), stepXWalk_skip]
    · simp [State.skipSample, State.appendSample, ho, selBit]; omega
    · simp; omega
    · simp [onChannel, selBit, hsel]; omega
  | right =>
    have h1 : codecStep s = .next s.skipSample := by
      rw [codecStep_xWalk hp]
      exact stepXWalk_skip (by omega) (by rw [hsel]; simp [onChannel, selBit]; omega)
    refine Reach.step hw hbusy h1 (Reach.one hw (by exact hbusy) ?_)
    rw [codecStep_xWalk (by exact hp), stepXWalk_decode (lo := chunk.getD (4*j+2) 0#8) (hi := chunk.getD (4*j+3) 0#8)]
    · simp [State.skipSample, State.appendSample, ho, selBit]; omega
    · simp; omega
    · simp [onChannel, selBit, hsel]; omega
    · have := byte (4*j+2) (s.off+2) s.xout (by omega)
      simp only [State.skipSample_off, ho]; rw [ho] at this; exact this
    · have := byte (4*j+3) (s.off+2) s.xout (by omega)
      simp only [State.skipSample_off, ho]; rw [ho] at this; exact this

/-- The walk of the first `j` frames of a chunk. -/
theorem frames_reach {s : State} {chunk junk : List Byte} (hw : hostWaits s = true) (hp : s.ph = .xWalk)
    (hb : s.cbuf = chunk ++ junk) (hc : s.cnt = chunk.length) (ho : s.off = 0) (j : Nat) (hj : j ≤ chunk.length / 4) :
    Reach (2 * j) s { s with
      off := 4 * j
      xout := s.xout ++ (List.range j).map fun j => decodeSample (chunk.getD (4 * j + 2 * selBit (selector s.op)) 0#8)
        (chunk.getD (4 * j + 2 * selBit (selector s.op) + 1) 0#8) } := by
  induction j with
  | zero =>
    have h0 : ({ s with off := 4 * 0, xout := s.xout ++ [] } : State) = s := by cases s; simp_all
    have := Reach.zero s
    simp only [List.range_zero, List.map_nil, h0]
    exact this
  | succ j ih =>
    have := (ih (by omega)).trans (frame_reach (s := { s with
      off := 4 * j
      xout := s.xout ++ (List.range j).map fun j => decodeSample (chunk.getD (4 * j + 2 * selBit (selector s.op)) 0#8)
        (chunk.getD (4 * j + 2 * selBit (selector s.op) + 1) 0#8) }) hw hp hb hc rfl (by omega))
    rw [show 2 * (j+1) = 2 * j + 2 by omega, List.range_succ, List.map_append]
    simpa using this

/-- The walk of a whole chunk, its end included (R102, R103). -/
theorem chunk_reach {s : State} {chunk junk : List Byte} (hw : hostWaits s = true) (hp : s.ph = .xWalk)
    (hb : s.cbuf = chunk ++ junk) (hc : s.cnt = chunk.length) (ho : s.off = 0) :
    Reach (chunk.length / 4 * 2 + 1) s { s with
      ph := .xRead, off := walkLimit chunk.length, xout := s.xout ++ samplesOf (selector s.op) chunk } := by
  have h1 := frames_reach hw hp hb hc ho (chunk.length / 4) (le_refl _)
  rw [Nat.mul_comm] at h1
  have hlim : 4 * (chunk.length / 4) = walkLimit chunk.length := by unfold walkLimit; omega
  rw [hlim] at h1
  refine h1.trans (Reach.one hw (busy_of (by simp only [hp]; rfl)) ?_)
  rw [codecStep_xWalk (by exact hp), stepXWalk_end (by simp [hc])]
  rfl

end Sys2Proof.Safety
end

