-- ==== Sys2Proof/Tests/Slice0.lean ====
section
/-! SUPPORT. Tests of the model on single steps and small values, with the vectors of spec/95_test_vectors.md they come
from, and for every obligation with hypotheses a state and operands that meet them (`test_meets_…`). -/

namespace Sys2Proof.Tests

open Sys2Proof Sys2Proof.Machine Sys2Proof.Safety

/-! ## Small states -/

/-- `d_ok` of 95_test_vectors.md. -/
def dOk : Descriptor := { found := true, parsable := true, bits := 16, channels := 2 }

def session (d : Descriptor) (segments : List (List Byte)) : Session :=
  { descriptor := d, segments := segments, endless := false }

/-- At rest after reset, with the environment's answers to the opens to come. -/
def ready (answers : List Session) : State :=
  { State.reset with env := { sessions := answers, stream := none, requests := [] } }

/-- At rest after reset, with the operands of a mix and the host's events to come. -/
def hosted (l r : List Sample) (pending : List Pending) : State :=
  { State.reset with host := { left := l, right := r, pending := pending, seen := [] } }

/-- An extraction in phase X_OPEN. -/
def opening (answers : List Session) : State := (ready answers).startExtract 0b00#2

/-- An extraction in phase X_READ of a stream with these pieces left. -/
def reading (segments : List (List Byte)) : State :=
  { ready [] with
    ph := .xRead, held := true, extracted := true
    env := { sessions := [], stream := some (session dOk segments), requests := [.streamOpen] } }

/-- An extraction in phase X_WALK at offset `off` of a chunk of `cnt` bytes. -/
def walking (op : CmdWord) (cnt off : Nat) (cbuf : List Byte) : State :=
  { reading [] with ph := .xWalk, op := op, cnt := cnt, off := off, cbuf := cbuf }

/-- The chunk buffer of V22: the second chunk of `B20`, bytes 4 to 15 left over from the first. -/
def staleBuffer : List Byte :=
  [0x80#8, 0x00#8, 0x00#8, 0xFF#8, 0xFF#8, 0xFF#8, 0xFE#8, 0xFF#8, 0x00#8, 0x80#8, 0xFF#8, 0x7F#8, 0x34#8, 0x12#8,
    0xCD#8, 0xAB#8]

/-- A mix in phase M_CHECK. -/
def checking (l r : List Sample) : State := (hosted l r []).startMix 0b10#2

/-- The mix of P2 in phase M_WRITE with `k` pairs written. -/
def writing (k : Nat) (m : List (Option Byte)) : State :=
  { checking [0x1234#16, 0x8000#16] [0xFFFF#16, 0x7FFF#16] with ph := .mWrite, len := 2, k := k, mout := some m }

/-- `MOUT` of P2 after M_CHECK. -/
def mout0 : List (Option Byte) := List.replicate 8 none

/-- `MOUT` of P2 after pair 0: `34 12 FF FF __ __ __ __`. -/
def mout1 : List (Option Byte) :=
  [some 0x34#8, some 0x12#8, some 0xFF#8, some 0xFF#8, none, none, none, none]

/-- `MOUT` of P2 after pair 1: `34 12 FF FF 00 80 FF 7F`. -/
def mout2 : List (Option Byte) :=
  [some 0x34#8, some 0x12#8, some 0xFF#8, some 0xFF#8, some 0x00#8, some 0x80#8, some 0xFF#8, some 0x7F#8]

/-- The first event of the host's list, due at once. -/
def now (e : HostEvent) : List Pending := [{ timing := .after 0, event := e }]

/-! ## Well-formedness: an ill-formed term for each check -/

theorem test_reserved_is_ill_formed : Instr.reserved.wf = false := by decide

theorem test_program_with_reserved_is_refused : Instr.programWf [.extractLeft, .reserved, .mix] = false := by decide

theorem test_program_without_reserved_is_accepted :
    Instr.programWf [.extractLeft, .extractRight, .mix] = true := by decide

theorem test_chunk_size_zero_is_ill_formed : Config.chunkOk 0 = false := by decide

theorem test_chunk_size_six_is_ill_formed : Config.chunkOk 6 = false := by decide

theorem test_chunk_size_sixteen_is_accepted : Config.chunkOk 16 = true := by decide

theorem test_short_chunk_buffer_is_ill_formed :
    Memory.wf { State.reset with cbuf := [0x00#8] } = false := by decide

theorem test_missing_command_word_is_rejected_by_name : decode [] = .error .noCommandWord := rfl

/-! ## Decoding: the words of R83 written out bit by bit -/

/-- R83: `CMD[1:0] = 0b00`, `UNIT = 0`, `SEL = 0`. -/
theorem test_decode_extract_left : decode [0b00000000#8] = .ok (.extractLeft, []) := rfl

/-- R83: `CMD[1:0] = 0b01`, `UNIT = 0`, `SEL = 1`. -/
theorem test_decode_extract_right : decode [0b00000001#8] = .ok (.extractRight, []) := rfl

/-- R83: `CMD[1:0] = 0b10`, `UNIT = 1`, `SEL = 0`. -/
theorem test_decode_mix : decode [0b00000010#8] = .ok (.mix, []) := rfl

/-- R83, R85: `CMD[1:0] = 0b11`. -/
theorem test_decode_reserved : decode [0b00000011#8] = .ok (.reserved, []) := rfl

/-- R34: upper bits ignored; the bytes after the word are left. -/
theorem test_decode_ignores_upper_bits : decode [0b11111110#8, 0x5A#8] = .ok (.mix, [0x5A#8]) := rfl

/-- The encoding of P2: `00`, `01`, `10`. -/
theorem test_decode_program_p2 :
    decodeProgram [0b00#8, 0b01#8, 0b10#8] = [.extractLeft, .extractRight, .mix] := by decide

theorem test_table_words :
    decodeTableWord 2 0x0 = some .extractLeft ∧ decodeTableWord 2 0x1 = some .extractRight ∧
    decodeTableWord 8 0x2 = some .mix ∧ decodeTableWord 8 0x3 = some .reserved := by decide

/-- R84, R94: the selector and the offsets of each channel. -/
theorem test_channel_of_offset :
    selector 0b00#2 = .left ∧ selector 0b01#2 = .right ∧ onChannel .left 4 = true ∧ onChannel .left 6 = false ∧
    onChannel .right 6 = true ∧ onChannel .right 8 = false := by decide

/-! ## Samples: V1 to V4, V12, V13 -/

theorem test_decode_sample_examples :
    (decodeSample 0x34#8 0x12#8).toInt = 4660 ∧ (decodeSample 0xFF#8 0xFF#8).toInt = -1 ∧
    (decodeSample 0x12#8 0x34#8).toInt = 13330 ∧ (decodeSample 0xCD#8 0xAB#8).toInt = -21555 := by decide

/-- V12: the low byte is unsigned; the two sides of `hi = 128`, where the cases of R77 meet. -/
theorem test_decode_sample_corners :
    (decodeSample 0x80#8 0x00#8).toInt = 128 ∧ (decodeSample 0xFF#8 0x00#8).toInt = 255 ∧
    (decodeSample 0xFF#8 0x7F#8).toInt = 32767 ∧ (decodeSample 0x00#8 0x80#8).toInt = -32768 ∧
    (decodeSample 0x7F#8 0x80#8).toInt = -32641 ∧ (decodeSample 0x80#8 0xFF#8).toInt = -128 := by decide

theorem test_encode_sample_examples :
    encodeSample (BitVec.ofInt 16 (-1)) = (0xFF#8, 0xFF#8) ∧ encodeSample (BitVec.ofInt 16 4660) = (0x34#8, 0x12#8) ∧
    encodeSample (BitVec.ofInt 16 (-32768)) = (0x00#8, 0x80#8) ∧
    encodeSample (BitVec.ofInt 16 (-129)) = (0x7F#8, 0xFF#8) ∧
    encodeSample (BitVec.ofInt 16 32640) = (0x80#8, 0x7F#8) ∧ encodeSample (BitVec.ofInt 16 256) = (0x00#8, 0x01#8) := by
  decide

/-- V34: a big-endian stream is decoded as if little-endian. -/
theorem test_big_endian_is_byte_swapped :
    (samplesOf .left [0x12#8, 0x34#8, 0xFF#8, 0xFE#8]).map BitVec.toInt = [13330] ∧
    (samplesOf .right [0x12#8, 0x34#8, 0xFF#8, 0xFE#8]).map BitVec.toInt = [-257] := by decide

/-- V17, transaction level: a half frame is not decoded and `TRUNC` is set. -/
theorem test_half_frame_is_dropped :
    extract dOk [0x34#8, 0x12#8, 0xFF#8, 0xFF#8, 0x01#8, 0x00#8] .left =
      { outcome := .success, buffer := some (.samples [0x1234#16]), trunc := true } := by decide

/-- V28d, transaction level. -/
theorem test_mix_byte_order :
    mixBytes [BitVec.ofInt 16 256, BitVec.ofInt 16 (-256)] [BitVec.ofInt 16 255, BitVec.ofInt 16 (-255)] =
      [0x00#8, 0x01#8, 0xFF#8, 0x00#8, 0x00#8, 0xFF#8, 0x01#8, 0xFF#8] := by decide

/-! ## `STATUS`: V36 -/

theorem test_status_at_rest :
    State.reset.status = 0x00#8 ∧ ((ready []).raise .resourceNotFound).status = 0x0A#8 ∧
    ((ready []).raise .unsupportedFormat).status = 0x0E#8 ∧ ((ready []).raise .lengthMismatch).status = 0x12#8 ∧
    (ready []).succeed.status = 0x06#8 ∧ { (ready []).succeed with trunc := true }.status = 0x26#8 := by decide

theorem test_status_while_busy :
    (reading []).status = 0x41#8 ∧ (checking [] []).status = 0x01#8 ∧ (writing 1 mout1).status = 0x01#8 ∧
    { walking 0b00#2 10 0 staleBuffer with trunc := true }.status = 0x61#8 := by decide

/-! ## One step: `extractLeft`, `extractRight` -/

/-- The placed word is run by the next step. -/
theorem test_place_extract_left :
    step (State.reset.withFetchWord 2 0x0) = .next (State.reset.startExtract 0b00#2) := rfl

theorem test_place_extract_right :
    step (State.reset.withFetchWord 2 0x1) = .next (State.reset.startExtract 0b01#2) := rfl

/-- V27 (b): a chunk of 6 bytes sets `TRUNC`; the rest of `CBUF` is not written (R101). -/
theorem test_ragged_chunk :
    (readWith (.data [0x01#8, 0x00#8, 0x02#8, 0x00#8, 0xFF#8, 0xFF#8])
      { reading [] with cbuf := staleBuffer }).trunc = true ∧
    (readWith (.data [0x01#8, 0x00#8, 0x02#8, 0x00#8, 0xFF#8, 0xFF#8])
      { reading [] with cbuf := staleBuffer }).cbuf.drop 6 = staleBuffer.drop 6 := by decide

/-- V22: the walk of the second chunk of V20 ends at offset 4, whatever stands behind it. -/
theorem test_walk_stops_before_stale_bytes :
    codecStep (walking 0b00#2 4 4 staleBuffer) = .next { walking 0b00#2 4 4 staleBuffer with ph := .xRead } := rfl

/-- P1 operation 2: at offset 2 the right channel decodes `00 FF`. -/
theorem test_walk_decodes_right :
    codecStep (walking 0b01#2 4 2 staleBuffer) =
      .next { walking 0b01#2 4 2 staleBuffer with xout := [BitVec.ofInt 16 (-256)], off := 4 } := rfl

/-- P4: mono is refused with an open and a close and no read, a missing resource with an open only. -/
theorem test_open_failures :
    (openWith { dOk with channels := 1 } (opening [session { dOk with channels := 1 } []]).streamOpen).env.requests =
      [.streamOpen, .streamClose] ∧
    (openWith { dOk with found := false } (opening [session { dOk with found := false } []]).streamOpen).env.requests =
      [.streamOpen] := by decide

/-! ## One step: `mix` -/

theorem test_place_mix : step (State.reset.withFetchWord 2 0x2) = .next (State.reset.startMix 0b10#2) := rfl

/-- P2: pair 0 gives `34 12 FF FF __ __ __ __`. -/
theorem test_write_pair_zero : codecStep (writing 0 mout0) = .next (writing 1 mout1) := rfl

/-- P2: pair 1 completes `MOUT`. -/
theorem test_write_pair_one : codecStep (writing 1 mout1) = .next (writing 2 mout2) := rfl

/-- V5: lengths 3 and 2. -/
theorem test_length_mismatch :
    codecStep (checking [1#16, 2#16, 3#16] [4#16, 5#16]) =
      .next { checking [1#16, 2#16, 3#16] [4#16, 5#16] with outcome := .lengthMismatch, ph := .done } := rfl

/-! ## One step: the reserved word, and commands while busy (V35) -/

theorem test_place_reserved : step (State.reset.withFetchWord 2 0x3) = .next State.reset := rfl

/-- V35 (b): `0b10` written in `X_WALK`. -/
theorem test_mix_while_walking :
    step ((walking 0b00#2 16 6 staleBuffer).withFetchWord 2 0x2) = .next (walking 0b00#2 16 6 staleBuffer) := rfl

/-! ## The hypotheses of the obligations can be met -/

theorem test_meets_DecodeSampleValue : (0x7F#8).toNat < 128 ∧ 128 ≤ (0x80#8).toNat := by decide

theorem test_meets_StartBeginsOperation :
    State.reset.ph.atRest = true ∧ Config.chunkOk State.reset.chunkBytes = true ∧
    ((ready []).raise .lengthMismatch).ph.atRest = true := by decide

theorem test_meets_StartWhileBusyChangesNothing :
    (checking [] []).ph.atRest = false ∧ (reading []).ph.atRest = false := by decide

theorem test_meets_ReservedChangesNothing : cmdBits 0b11111111#8 = 0b11#2 := by decide

/-- Below 4, and not a multiple of 4. -/
theorem test_meets_BadChunkSizeRefused :
    ¬(4 ≤ (State.resetWith 0).chunkBytes ∧ (State.resetWith 0).chunkBytes % 4 = 0) ∧
    ¬(4 ≤ (State.resetWith 6).chunkBytes ∧ (State.resetWith 6).chunkBytes % 4 = 0) ∧
    (State.resetWith 6).ph.atRest = true ∧ { reading [] with chunkBytes := 6 }.ph = .xRead := by decide

theorem test_meets_CommandFrame :
    exec .extractLeft State.reset = .next (State.reset.startExtract 0b00#2) ∧
    exec .extractRight State.reset = .next (State.reset.startExtract 0b01#2) ∧
    exec .mix State.reset = .next (State.reset.startMix 0b10#2) ∧ exec .reserved State.reset = .next State.reset :=
  ⟨rfl, rfl, rfl, rfl⟩

theorem test_meets_StepRunsDecodedCommand :
    (hosted [] [] (now (.write .cmd 0x02#8))).host.pending = { timing := .after 0, event := .write .cmd 0x02#8 } :: [] ∧
    isDue (.after 0) (hosted [] [] (now (.write .cmd 0x02#8))) = true ∧
    isDue .atRest (hosted [] [] (now (.write .cmd 0x02#8))) = true ∧ decode [0x02#8] = .ok (.mix, []) :=
  ⟨rfl, rfl, rfl, rfl⟩

theorem test_meets_PlacedWordRuns : decodeTableWord 2 0x1 = some .extractRight := rfl

/-- Both clauses: no event lands, and one that has one step to wait. -/
theorem test_meets_StepIsCodecStep :
    hostWaits (checking [] []) = true ∧ (checking [] []).busy = true ∧
    ((hosted [] [] [{ timing := .after 1, event := .reset }]).startMix 0b10#2).host.pending =
      { timing := .after (0 + 1), event := .reset } :: [] ∧
    ((hosted [] [] [{ timing := .after 1, event := .reset }]).startMix 0b10#2).busy = true := by decide

theorem test_meets_AtRestNothingHappens : State.reset.ph.atRest = true ∧ State.reset.host.pending = [] := by decide

/-- The listed answer, for each of the three arms. -/
theorem test_meets_OpenStep :
    (opening [session dOk []]).ph = .xOpen ∧ (opening [session dOk []]).env.sessions = session dOk [] :: [] ∧
    (session dOk []).descriptor.found = true ∧ (session dOk []).descriptor.parsable = true ∧
    (session dOk []).descriptor.bits = 16 ∧ (session dOk []).descriptor.channels = 2 ∧
    (session { dOk with found := false } []).descriptor.found = false ∧
    ¬((session { dOk with bits := 8 } []).descriptor.parsable = true ∧
      (session { dOk with bits := 8 } []).descriptor.bits = 16 ∧
      (session { dOk with bits := 8 } []).descriptor.channels = 2) := by decide

/-- The free answer. -/
theorem test_meets_OpenStep_free :
    (opening []).ph = .xOpen ∧ (opening []).env.sessions = [] ∧
    ∃ c, c = Config.freeSession (opening []).draws := ⟨rfl, rfl, _, rfl⟩

/-- Both forms of end of data, and data. -/
theorem test_meets_ReadStep :
    (reading []).ph = .xRead ∧ Config.chunkOk (reading []).chunkBytes = true ∧
    (reading []).env.stream = some (session dOk []) ∧ streamAnswer 16 0 (session dOk []) = .eos ∧
    streamAnswer 16 0 (session dOk [[]]) = .data [] ∧
    streamAnswer 16 0 (session dOk [[0x34#8]]) = .data [0x34#8] := by decide

theorem test_meets_ReadsDeliverStreamInOrder :
    (session dOk [[0x01#8, 0x02#8]]).endless = false ∧
    streamAnswer 1 0 (session dOk [[0x01#8, 0x02#8]]) = .data [0x01#8] ∧
    streamAnswer 1 0 (session dOk []) = .eos := by decide

/-- Each channel on its own offset and on the other's, at the first and the last offset of the walk. -/
theorem test_meets_WalkStep :
    (walking 0b00#2 4 0 staleBuffer).ph = .xWalk ∧ 0 < 4 - 4 % 4 ∧ 2 < 7 - 7 % 4 ∧
    staleBuffer[0]? = some 0x80#8 ∧ staleBuffer[0 + 1]? = some 0x00#8 ∧ staleBuffer[2 + 1]? = some 0xFF#8 ∧
    0 % 4 = (if (0b00#2).getLsbD 0 then 2 else 0) ∧ 2 % 4 = (if (0b01#2).getLsbD 0 then 2 else 0) ∧
    0 % 4 ≠ (if (0b01#2).getLsbD 0 then 2 else 0) ∧ 2 % 4 ≠ (if (0b00#2).getLsbD 0 then 2 else 0) := by decide

theorem test_meets_WalkEndsAtLimit :
    (walking 0b00#2 7 4 staleBuffer).ph = .xWalk ∧
    (walking 0b00#2 7 4 staleBuffer).cnt - (walking 0b00#2 7 4 staleBuffer).cnt % 4 ≤
      (walking 0b00#2 7 4 staleBuffer).off := by decide

theorem test_meets_CloseStep : { reading [] with ph := .xClose }.ph = .xClose := rfl

theorem test_meets_StaleBytesHaveNoEffect :
    (walking 0b00#2 4 2 staleBuffer).ph = .xWalk ∧
    (walking 0b00#2 4 2 staleBuffer).cnt ≤ (walking 0b00#2 4 2 staleBuffer).cbuf.length ∧
    codecStep (walking 0b00#2 4 2 staleBuffer) = .next (walking 0b00#2 4 2 staleBuffer).skipSample :=
  ⟨rfl, by decide, rfl⟩

theorem test_meets_CheckStep :
    (checking [1#16] []).ph = .mCheck ∧ (checking [1#16] []).lbuf.length ≠ (checking [1#16] []).rbuf.length ∧
    (checking [] []).lbuf.length = (checking [] []).rbuf.length := by decide

/-- The first and the last pair. -/
theorem test_meets_WriteStep :
    (writing 0 mout0).ph = .mWrite ∧ (writing 0 mout0).k < (writing 0 mout0).len ∧
    (writing 0 mout0).lbuf[0]? = some 0x1234#16 ∧ (writing 0 mout0).rbuf[0]? = some 0xFFFF#16 ∧
    (writing 0 mout0).mout = some mout0 ∧ mout0.length = 4 * (writing 0 mout0).len ∧
    (writing 1 mout1).k < (writing 1 mout1).len ∧ (writing 1 mout1).lbuf[1]? = some 0x8000#16 ∧
    (writing 1 mout1).rbuf[1]? = some 0x7FFF#16 ∧ mout1.length = 4 * (writing 1 mout1).len := by decide

theorem test_meets_WriteEndStep :
    (writing 2 mout2).ph = .mWrite ∧ (writing 2 mout2).k = (writing 2 mout2).len := by decide

/-- An extraction's step and a mix's. -/
theorem test_meets_OperationFrame :
    codecStep (walking 0b00#2 4 2 staleBuffer) = .next (walking 0b00#2 4 2 staleBuffer).skipSample ∧
    codecStep (checking [] []) = .next (checking [] []).allocate := ⟨rfl, rfl⟩

/-- The conditions on the Codec under which an extraction starts and runs undisturbed. -/
def startable (s : State) : Bool := s.ph.atRest && Config.chunkOk s.chunkBytes && hostWaits s

/-- A stream in two pieces, the first short and not of whole frames (V27 b). -/
theorem test_meets_ExtractionOfAnyChunks :
    startable (ready [session dOk [staleBuffer.take 6, staleBuffer.drop 6]]) = true ∧
    (ready [session dOk [staleBuffer.take 6, staleBuffer.drop 6]]).env.sessions =
      session dOk [staleBuffer.take 6, staleBuffer.drop 6] :: [] ∧
    (session dOk [staleBuffer.take 6, staleBuffer.drop 6]).endless = false ∧ dOk.found = true ∧
    formatAccepted dOk = true := by decide

/-- V27 (a): a short first piece of whole frames; the weaker contract holds and the full-chunk contract does not. -/
theorem test_meets_ExtractionRefinesTransaction :
    startable (ready [session dOk [staleBuffer.take 8, staleBuffer.drop 8 ++ [0x01#8]]]) = true ∧
    (ready [session dOk [staleBuffer.take 8, staleBuffer.drop 8 ++ [0x01#8]]]).held = false ∧
    (ready [session dOk [staleBuffer.take 8, staleBuffer.drop 8 ++ [0x01#8]]]).env.sessions =
      session dOk [staleBuffer.take 8, staleBuffer.drop 8 ++ [0x01#8]] :: [] ∧
    wholeFrames 16 (session dOk [staleBuffer.take 8, staleBuffer.drop 8 ++ [0x01#8]]) ∧
    ¬fullChunks 16 (session dOk [staleBuffer.take 8, staleBuffer.drop 8 ++ [0x01#8]]) := by
  unfold wholeFrames fullChunks; decide

/-- V20: one piece of 20 bytes, in chunks of 16 and 4. -/
theorem test_meets_FullChunksSuffice :
    fullChunks 16 (session dOk [staleBuffer ++ staleBuffer.take 4]) ∧ Config.chunkOk 16 = true := by
  unfold fullChunks; decide

theorem test_meets_MissingResourceFails :
    startable (ready [session { dOk with found := false } []]) = true ∧
    (ready [session { dOk with found := false } []]).env.sessions = session { dOk with found := false } [] :: [] ∧
    (session { dOk with found := false } []).descriptor.found = false := by decide

/-- Each of the three reasons (V24, V25). -/
theorem test_meets_WrongFormatFails :
    startable (ready [session { dOk with bits := 8 } []]) = true ∧
    (ready [session { dOk with bits := 8 } []]).env.sessions = session { dOk with bits := 8 } [] :: [] ∧
    (session { dOk with bits := 8 } []).descriptor.found = true ∧
    (session { dOk with bits := 8 } []).descriptor.bits ≠ 16 ∧
    (session { dOk with parsable := false } []).descriptor.parsable = false ∧
    (session { dOk with channels := 6 } []).descriptor.channels ≠ 2 := by decide

/-- Both forms of an empty stream. -/
theorem test_meets_EmptyStreamGivesEmptyBuffer :
    startable (ready [session dOk [[]]]) = true ∧ (ready [session dOk [[]]]).env.sessions = session dOk [[]] :: [] ∧
    (session dOk [[]]).endless = false ∧ (session dOk [[]]).descriptor = dOk ∧ dOk.found = true ∧
    dOk.parsable = true ∧ dOk.bits = 16 ∧ dOk.channels = 2 ∧ (session dOk [[]]).segments = [] :: [] ∧
    (session dOk []).segments = [] := by decide

/-- Equal and different lengths. -/
theorem test_meets_MixRefinesTransaction :
    (hosted [1#16] [2#16] []).ph.atRest = true ∧ hostWaits (hosted [1#16] [2#16] []) = true ∧
    (hosted [1#16] [] []).ph.atRest = true := by decide

theorem test_meets_LengthMismatchFails :
    (hosted [] [7#16] []).ph.atRest = true ∧ hostWaits (hosted [] [7#16] []) = true ∧
    (hosted [] [7#16] []).host.left.length ≠ (hosted [] [7#16] []).host.right.length := by decide

theorem test_meets_MixBytesByIndex :
    [1#16, 2#16].length = [3#16, 4#16].length ∧ [1#16, 2#16][1]? = some 2#16 ∧ [3#16, 4#16][1]? = some 4#16 := by decide

theorem test_meets_ExtractInvertsMix :
    [1#16, 2#16].length = [3#16, 4#16].length ∧ dOk.found = true ∧ formatAccepted dOk = true := by decide

/-- Two Codecs with different chunk sizes (V21). -/
theorem test_meets_ChannelsHaveEqualLength :
    startable (ready [session dOk [staleBuffer]]) = true ∧
    startable { ready [session dOk [staleBuffer]] with chunkBytes := 12 } = true ∧
    (ready [session dOk [staleBuffer]]).env.sessions = session dOk [staleBuffer] :: [] ∧
    fullChunks 16 (session dOk [staleBuffer]) ∧ fullChunks 12 (session dOk [staleBuffer]) ∧ dOk.found = true ∧
    formatAccepted dOk = true := by
  unfold fullChunks; decide

theorem test_meets_EndlessStreamNeverEnds :
    startable (ready [{ session dOk [[0x01#8]] with endless := true }]) = true ∧
    (ready [{ session dOk [[0x01#8]] with endless := true }]).env.sessions =
      { session dOk [[0x01#8]] with endless := true } :: [] ∧
    { session dOk [[0x01#8]] with endless := true }.endless = true ∧
    (∀ b ∈ { session dOk [[0x01#8]] with endless := true }.segments, b ≠ []) ∧ dOk.found = true ∧
    formatAccepted dOk = true := by decide

/-- After reset, and after a mix that failed: the operands and the environment agree, the Codec's elements do not. -/
theorem test_meets_NoStateCarriesOver :
    (ready []).ph.atRest = true ∧ ((ready []).raise .lengthMismatch).ph.atRest = true ∧
    (ready []).host = ((ready []).raise .lengthMismatch).host ∧ (ready []).host.pending = [] ∧
    (ready []).env.sessions = ((ready []).raise .lengthMismatch).env.sessions ∧
    (ready []).draws = ((ready []).raise .lengthMismatch).draws ∧
    (ready []).chunkBytes = ((ready []).raise .lengthMismatch).chunkBytes ∧
    (ready []).held = ((ready []).raise .lengthMismatch).held ∧
    exec .mix (ready []) = .next ((ready []).startMix 0b10#2) ∧
    exec .mix ((ready []).raise .lengthMismatch) = .next (((ready []).raise .lengthMismatch).startMix 0b10#2) ∧
    run 1 ((ready []).startMix 0b10#2) = .next ((ready []).startMix 0b10#2).allocate :=
  ⟨rfl, rfl, rfl, rfl, rfl, rfl, rfl, rfl, rfl, rfl, rfl⟩

/-- A mix half way. -/
theorem test_meets_Inv_writing : Inv (writing 1 mout1) where
  chunk := by decide
  memory := by decide
  held := by decide
  stream := by decide
  idle := by decide
  done := by decide
  busy := by decide
  walk := by intro h; cases h
  write := fun _ => ⟨mout1, ⟨rfl, rfl, rfl, by decide, rfl, by decide⟩⟩
  extractFailure := by decide
  mixFailure := by decide
  trunc := by decide
  extractUnit := by decide
  mixUnit := by decide
  opening := by decide
  checking := by decide
  mixDone := by decide
  started := by decide
  command := by decide

/-- A mix half way whose host takes the result at rest, resets, and issues a second command that it waits for. -/
def dutiful : State :=
  { writing 1 mout1 with
    host := { left := [], right := []
              pending := [{ timing := .atRest, event := .takeResult }, { timing := .after 3, event := .reset },
                { timing := .atRest, event := .write .cmd 0x02#8 }, { timing := .atRest, event := .takeResult }]
              seen := [] } }

/-- The invariants say nothing of the host's side. -/
theorem test_meets_Inv_dutiful : Inv dutiful where
  chunk := by decide
  memory := by decide
  held := by decide
  stream := by decide
  idle := by decide
  done := by decide
  busy := by decide
  walk := by intro h; cases h
  write := fun _ => ⟨mout1, ⟨rfl, rfl, rfl, by decide, rfl, by decide⟩⟩
  extractFailure := by decide
  mixFailure := by decide
  trunc := by decide
  extractUnit := by decide
  mixUnit := by decide
  opening := by decide
  checking := by decide
  mixDone := by decide
  started := by decide
  command := by decide

/-- An extraction in the middle of a chunk that is not of whole frames. -/
theorem test_meets_Inv_walking : Inv { walking 0b01#2 7 2 staleBuffer with trunc := true } where
  chunk := by decide
  memory := by decide
  held := by decide
  stream := by decide
  idle := by decide
  done := by decide
  busy := by decide
  walk := fun _ => ⟨by decide, by decide, by decide, by decide⟩
  write := by intro h; cases h
  extractFailure := by decide
  mixFailure := by decide
  trunc := by decide
  extractUnit := by decide
  mixUnit := by decide
  opening := by decide
  checking := by decide
  mixDone := by decide
  started := by decide
  command := by decide

/-- A mix that has succeeded: the second clause of `ResultHandOver`, the first of `MixAllOrNothing`. -/
theorem test_meets_Inv_mixed : Inv (writing 2 mout2).succeed where
  chunk := by decide
  memory := by decide
  held := by decide
  stream := by decide
  idle := by decide
  done := by decide
  busy := by decide
  walk := by intro h; cases h
  write := by intro h; cases h
  extractFailure := by decide
  mixFailure := by decide
  trunc := by decide
  extractUnit := by decide
  mixUnit := by decide
  opening := by decide
  checking := by decide
  mixDone := by decide
  started := by decide
  command := by decide

/-- A mix that has failed: the second clause of `MixAllOrNothing`. -/
theorem test_meets_Inv_mismatched : Inv ((checking [1#16] []).raise .lengthMismatch) where
  chunk := by decide
  memory := by decide
  held := by decide
  stream := by decide
  idle := by decide
  done := by decide
  busy := by decide
  walk := by intro h; cases h
  write := by intro h; cases h
  extractFailure := by decide
  mixFailure := by decide
  trunc := by decide
  extractUnit := by decide
  mixUnit := by decide
  opening := by decide
  checking := by decide
  mixDone := by decide
  started := by decide
  command := by decide

/-- With `test_meets_Inv_writing`, for `StepKeepsInvariant` and `NoStepFaults`. -/
theorem test_meets_StepKeepsInvariant : step (writing 1 mout1) = .next (writing 2 mout2) := rfl

/-- Each duty of the host broken: `0b11`, `START` while busy, a result taken in `IDLE`, before a command and after a reset,
and a read of `CMD`. -/
theorem test_breaches_of_duty :
    hostDuties (hosted [] [] [{ timing := .atRest, event := .write .cmd 0x03#8 }]) = false ∧
    hostDuties { writing 1 mout1 with host := (hosted [] [] (now (.write .cmd 0x02#8))).host } = false ∧
    hostDuties (hosted [] [] [{ timing := .atRest, event := .takeResult }]) = false ∧
    hostDuties { writing 1 mout1 with
      host := (hosted [] [] [{ timing := .atRest, event := .reset }, { timing := .atRest, event := .takeResult }]).host }
      = false ∧
    hostDuties (hosted [] [] (now (.read .cmd))) = false := by decide

/-- With `test_meets_Inv_dutiful`; and a state in which the taking of the result is due. -/
theorem test_meets_DutifulHostNeverStops :
    hostDuties dutiful = true ∧ hostDuties { dutiful with ph := .done, outcome := .success, k := 2 } = true ∧
    { dutiful with ph := .done, outcome := .success, k := 2 }.dueEvent = some .takeResult := by decide

/-- Each kind of step `PhaseGraphComplete` tells apart. -/
theorem test_meets_PhaseGraphComplete :
    (writing 1 mout1).dueEvent = none ∧
    (hosted [] [] (now (.write .cmd 0x02#8))).dueEvent = some (.write .cmd 0x02#8) ∧
    (hosted [] [] (now .reset)).dueEvent = some .reset ∧
    (hosted [] [] (now (.read .status))).dueEvent = some (.read .status) ∧
    step (hosted [] [] (now .reset)) = .next State.reset := ⟨rfl, rfl, rfl, rfl, rfl⟩

theorem test_meets_BusyPhasesAdvance : (writing 1 mout1).busy = true := rfl

/-- One step for each outcome. -/
theorem test_meets_OutcomesHaveTheirCauses :
    step (opening [session { dOk with found := false } []]) =
      .next ((opening [session { dOk with found := false } []]).streamOpen.raise .resourceNotFound) ∧
    step (opening [session { dOk with bits := 8 } []]) =
      .next ((opening [session { dOk with bits := 8 } []]).streamOpen.acquire.release.raise .unsupportedFormat) ∧
    step (checking [1#16] []) = .next ((checking [1#16] []).raise .lengthMismatch) ∧
    step (writing 2 mout2) = .next (writing 2 mout2).succeed ∧
    step { reading [] with ph := .xClose } = .next { reading [] with ph := .xClose }.release.succeed ∧
    step { (writing 2 mout2).succeed with host := (hosted [] [] (now (.write .cmd 0x02#8))).host } =
      .next { (writing 2 mout2).startMix 0b10#2 with lbuf := [], rbuf := [], host := (hosted [] [] []).host } :=
  ⟨rfl, rfl, rfl, rfl, rfl, rfl⟩

/-- `TRUNC` set by a chunk of one byte, and cleared by a reset. -/
theorem test_meets_TruncChangesOnlyAsRuled :
    step (reading [[0x34#8]]) = .next ((reading [[0x34#8]]).streamRead (session dOk [[0x34#8]]) |>.loadChunk [0x34#8]) ∧
    ((reading [[0x34#8]]).streamRead (session dOk [[0x34#8]]) |>.loadChunk [0x34#8]).trunc = true ∧
    step { hosted [] [] (now .reset) with trunc := true } = .next State.reset := ⟨rfl, rfl, rfl⟩

theorem test_meets_RunningOperationKeepsItsInputs :
    step (writing 1 mout1) = .next (writing 2 mout2) ∧ (writing 1 mout1).busy = true ∧
    (writing 1 mout1).dueEvent ≠ some .reset := ⟨rfl, rfl, by decide⟩

/-- With `test_meets_Inv_walking`: the steps that issue requests keep the hypothesis `step s = next t`. -/
theorem test_meets_RequestsOnlyFromTheirSteps :
    step { walking 0b01#2 7 2 staleBuffer with trunc := true } =
      .next ({ walking 0b01#2 7 2 staleBuffer with trunc := true }.appendSample 0xFF00#16) ∧
    step (reading [[0x34#8]]) = .next ((reading [[0x34#8]]).streamRead (session dOk [[0x34#8]]) |>.loadChunk [0x34#8]) :=
  ⟨rfl, rfl⟩

/-- With `test_meets_Inv_mixed` and `test_meets_Inv_mismatched`. -/
theorem test_meets_MixAllOrNothing :
    (writing 2 mout2).succeed.ph = .done ∧ isMix (writing 2 mout2).succeed = true ∧
    isMix ((checking [1#16] []).raise .lengthMismatch) = true := by decide

/-- Before and after the first operation of each unit. -/
theorem test_meets_RegisterReads :
    State.reset.mixed = false ∧ State.reset.extracted = false ∧ (reading []).extracted = true ∧
    (checking [] []).mixed = true ∧ (checking [] []).mout = none ∧ (writing 2 mout2).mout = some mout2 ∧
    registerValue .olen (writing 2 mout2) = some 8 ∧ registerValue .olen (checking [] []) = some 0 := by decide

theorem test_meets_OtherEventsLeaveTheCodec :
    handle (.present [1#16] [2#16]) State.reset = .next (State.reset.present [1#16] [2#16]) ∧
    handle (.write .status 0xFF#8) (reading []) = .next (reading []) ∧
    HostEvent.present [1#16] [2#16] ≠ .reset ∧ ∀ b, HostEvent.write .status 0xFF#8 ≠ .write .cmd b :=
  ⟨rfl, rfl, by decide, by intro b h; cases h⟩

/-- An extraction that succeeded, one that failed, and with `test_meets_Inv_mixed` a mix that succeeded. -/
theorem test_meets_ResultHandOver :
    { reading [] with held := false }.succeed.ph = .done ∧
    { reading [] with held := false }.succeed.outcome = .success ∧
    isMix { reading [] with held := false }.succeed = false ∧
    ((opening []).raise .resourceNotFound).outcome ≠ .success ∧ (writing 2 mout2).succeed.outcome = .success := by decide

/-- R189: a result taken in `M_CHECK` has the outcome `NONE` that `STATUS` shows. -/
theorem test_early_result_has_no_outcome : (checking [1#16] []).earlyResult.outcome = .none := rfl

/-- R165: no buffer with a failure code, whatever the free value. -/
theorem test_failure_has_no_buffer :
    ((ready []).raise .resourceNotFound).result.buffer = none ∧
    { checking [1#16] [] with outcome := .lengthMismatch }.earlyResult.buffer = none := ⟨rfl, rfl⟩

/-- A host that takes the result of a failed mix: nothing seen before, and the step that adds the record. -/
theorem test_meets_NoFailureComesWithBuffer :
    (∀ r : OpResult, Observation.result r ∉
      { hosted [] [] (now .takeResult) with ph := .done, outcome := .lengthMismatch }.host.seen) ∧
    step { hosted [] [] (now .takeResult) with ph := .done, outcome := .lengthMismatch } =
      .next { hosted [] [] [] with
              ph := .done, outcome := .lengthMismatch
              host := { left := [], right := [], pending := []
                        seen := [.result { outcome := .lengthMismatch, buffer := none, trunc := false }] } } ∧
    2 ≤ (outcomeBits .lengthMismatch).toNat :=
  ⟨(fun r h => by cases h), rfl, by decide⟩

theorem test_meets_InstancesAreIndependent :
    platformRun [writing 1 mout1, checking [] []] [1, 0] = .next [writing 2 mout2, (checking [] []).allocate] ∧
    [writing 1 mout1, checking [] []][1]? = some (checking [] []) := ⟨rfl, rfl⟩

end Sys2Proof.Tests
end

section
/-! PROOFS. The Codec's own step as a relation (10_state.md R39, 42_host_and_stream_ops.md R150): what each of its moves
tests, what it leaves as it was, and with it what a step of the machine can change. Settles O25, O48, O49, O54. -/

namespace Sys2Proof.Machine

variable {s t : State}

/-- The Codec's own step as a relation, one constructor per arm of a step rule (R100 to R104, R122 to R125) with
everything that arm tests. -/
inductive CodecMove (s : State) : State → Prop
  /-- R178 -/
  | rest (hp : s.ph.atRest = true) : CodecMove s s
  /-- R100, the resource is not found -/
  | notFound (hp : s.ph = .xOpen) (hf : s.openAnswer.descriptor.found = false) :
      CodecMove s (s.streamOpen.raise .resourceNotFound)
  /-- R100, the format is refused -/
  | refuse (hp : s.ph = .xOpen) (hf : s.openAnswer.descriptor.found = true)
      (ha : formatAccepted s.openAnswer.descriptor = false) :
      CodecMove s (s.streamOpen.acquire.release.raise .unsupportedFormat)
  /-- R100, the stream is accepted -/
  | accept (hp : s.ph = .xOpen) (hf : s.openAnswer.descriptor.found = true)
      (ha : formatAccepted s.openAnswer.descriptor = true) :
      CodecMove s { s.streamOpen.acquire with ph := .xRead }
  /-- R101, end of data -/
  | endOfData (c : Session) (hp : s.ph = .xRead) (hc : Config.chunkOk s.chunkBytes = true) (hs : s.env.stream = some c)
      (ha : streamAnswer s.chunkBytes s.draws c = .eos ∨ streamAnswer s.chunkBytes s.draws c = .data []) :
      CodecMove s { s.streamRead c with ph := .xClose }
  /-- R101, a chunk arrives -/
  | chunk (c : Session) (bytes : List Byte) (hp : s.ph = .xRead) (hc : Config.chunkOk s.chunkBytes = true)
      (hs : s.env.stream = some c) (hne : bytes ≠ []) (ha : streamAnswer s.chunkBytes s.draws c = .data bytes) :
      CodecMove s ((s.streamRead c).loadChunk bytes)
  /-- R102, a Sample of the channel -/
  | decode (lo hi : Byte) (hp : s.ph = .xWalk) (hlt : s.off < walkLimit s.cnt)
      (hon : onChannel (selector s.op) s.off = true) (hlo : s.chunkByte s.off = some lo)
      (hhi : s.chunkByte (s.off + 1) = some hi) : CodecMove s (s.appendSample (decodeSample lo hi))
  /-- R102, a Sample of the other channel -/
  | skip (hp : s.ph = .xWalk) (hlt : s.off < walkLimit s.cnt) (hon : onChannel (selector s.op) s.off = false) :
      CodecMove s s.skipSample
  /-- R103 -/
  | endOfChunk (hp : s.ph = .xWalk) (hge : walkLimit s.cnt ≤ s.off) : CodecMove s { s with ph := .xRead }
  /-- R104 -/
  | close (hp : s.ph = .xClose) : CodecMove s s.release.succeed
  /-- R122, the lengths agree -/
  | allocate (hp : s.ph = .mCheck) (he : s.lbuf.length = s.rbuf.length) : CodecMove s s.allocate
  /-- R122, the lengths differ -/
  | mismatch (hp : s.ph = .mCheck) (hne : s.lbuf.length ≠ s.rbuf.length) : CodecMove s (s.raise .lengthMismatch)
  /-- R124 -/
  | pair (l r : Sample) (m : List (Option Byte)) (hp : s.ph = .mWrite) (hk : s.k < s.len) (hl : s.lbuf[s.k]? = some l)
      (hr : s.rbuf[s.k]? = some r) (hm : s.mout = some m) (hlen : 4 * s.k + 3 < m.length) :
      CodecMove s (s.writePair m l r)
  /-- R125 -/
  | complete (hp : s.ph = .mWrite) (hk : s.k = s.len) : CodecMove s s.succeed

theorem codecMove_of_next (h : codecStep s = .next t) : CodecMove s t := by
  rcases codecStep_next h with
    ⟨hp, rfl⟩ | ⟨hp, rfl⟩ | ⟨hp, h⟩ | ⟨hp, h⟩ | ⟨hp, rfl⟩ | ⟨hp, h⟩ | ⟨hp, h⟩
  · exact .rest hp
  · rcases openWith_cases s.openAnswer.descriptor s.streamOpen with ⟨hf, e⟩ | ⟨hf, ha, e⟩ | ⟨hf, ha, e⟩ <;> rw [e]
    · exact .notFound hp hf
    · exact .refuse hp hf ha
    · exact .accept hp hf ha
  · obtain ⟨hc, c, hs, rfl⟩ := stepXRead_next h
    rcases readWith_cases (streamAnswer s.chunkBytes s.draws c) (s.streamRead c) with ⟨ha, e⟩ | ⟨bytes, hne, ha, e⟩ <;>
      rw [e]
    · exact .endOfData c hp hc hs ha
    · exact .chunk c bytes hp hc hs hne ha
  · rcases stepXWalk_next h with ⟨hlt, hon, lo, hi, hlo, hhi, rfl⟩ | ⟨hlt, hon, rfl⟩ | ⟨hge, rfl⟩
    · exact .decode lo hi hp hlt hon hlo hhi
    · exact .skip hp hlt hon
    · exact .endOfChunk hp hge
  · exact .close hp
  · rcases stepMCheck_next h with ⟨he, rfl⟩ | ⟨hne, rfl⟩
    · exact .allocate hp he
    · exact .mismatch hp hne
  · rcases stepMWrite_next h with ⟨hk, l, r, m, hl, hr, hm, hlen, rfl⟩ | ⟨hk, rfl⟩
    · exact .pair l r m hp hk hl hr hm hlen
    · exact .complete hp hk

theorem CodecMove.next (h : CodecMove s t) : codecStep s = .next t := by
  cases h with
  | rest hp => exact codecStep_atRest hp
  | notFound hp hf => rw [codecStep_xOpen hp]; simp [openWith, hf]
  | refuse hp hf ha => rw [codecStep_xOpen hp]; simp [openWith, hf, ha]
  | accept hp hf ha => rw [codecStep_xOpen hp]; simp [openWith, hf, ha]
  | endOfData c hp hc hs ha =>
    rw [codecStep_xRead hp, stepXRead_of_stream hc hs]
    rcases ha with ha | ha <;> rw [ha] <;> rfl
  | chunk c bytes hp hc hs hne ha =>
    rw [codecStep_xRead hp, stepXRead_of_stream hc hs, ha, readWith_data hne]
  | decode lo hi hp hlt hon hlo hhi => rw [codecStep_xWalk hp, stepXWalk_decode hlt hon hlo hhi]
  | skip hp hlt hon => rw [codecStep_xWalk hp, stepXWalk_skip hlt hon]
  | endOfChunk hp hge => rw [codecStep_xWalk hp, stepXWalk_end hge]
  | close hp => exact codecStep_xClose hp
  | allocate hp he => rw [codecStep_mCheck hp]; simp [stepMCheck, he]
  | mismatch hp hne => rw [codecStep_mCheck hp]; simp [stepMCheck, hne]
  | pair l r m hp hk hl hr hm hlen => rw [codecStep_mWrite hp, stepMWrite_pair hk hl hr hm hlen]
  | complete hp hk => rw [codecStep_mWrite hp, stepMWrite_end hk]

/-- The two readings of the Codec's own step agree. -/
theorem codecStep_eq_next_iff : codecStep s = .next t ↔ CodecMove s t := ⟨codecMove_of_next, CodecMove.next⟩

/-- A move at rest goes nowhere (R178). -/
theorem CodecMove.eq_of_atRest (h : CodecMove s t) (hp : s.ph.atRest = true) : s = t := by
  have hs := h.next
  rw [codecStep_atRest hp] at hs
  cases hs
  rfl

/-! ## What a move leaves as it was -/

/-- The command, its operands, `CHUNK_BYTES` and the host's side. -/
theorem CodecMove.keeps_inputs (h : CodecMove s t) :
    t.op = s.op ∧ t.lbuf = s.lbuf ∧ t.rbuf = s.rbuf ∧ t.chunkBytes = s.chunkBytes ∧ t.host = s.host ∧
      t.extracted = s.extracted ∧ t.mixed = s.mixed := by
  cases h <;> exact ⟨rfl, rfl, rfl, rfl, rfl, rfl, rfl⟩

theorem CodecMove.mixer_of_extracting (h : CodecMove s t) (hc : s.ph ≠ .mCheck) (hw : s.ph ≠ .mWrite) :
    t.len = s.len ∧ t.k = s.k ∧ t.mout = s.mout := by
  cases h with
  | allocate hp | mismatch hp => exact absurd hp hc
  | pair _ _ _ hp | complete hp => exact absurd hp hw
  | _ => exact ⟨rfl, rfl, rfl⟩

theorem CodecMove.extractor_of_mixing (h : CodecMove s t) (hm : s.ph = .mCheck ∨ s.ph = .mWrite) :
    t.xout = s.xout ∧ t.cbuf = s.cbuf ∧ t.cnt = s.cnt ∧ t.off = s.off ∧ t.trunc = s.trunc ∧ t.held = s.held ∧
      t.env = s.env ∧ t.draws = s.draws := by
  cases h with
  | rest | allocate | mismatch | pair | complete => exact ⟨rfl, rfl, rfl, rfl, rfl, rfl, rfl, rfl⟩
  | notFound hp | refuse hp | accept hp | endOfData _ hp | chunk _ _ hp | decode _ _ hp | skip hp | endOfChunk hp
  | close hp => simp [hp] at hm

theorem CodecMove.chunk_unless_read (h : CodecMove s t) (hp : s.ph ≠ .xRead) :
    t.cbuf = s.cbuf ∧ t.cnt = s.cnt ∧ t.trunc = s.trunc := by
  cases h with
  | endOfData _ hr | chunk _ _ hr => exact absurd hr hp
  | _ => exact ⟨rfl, rfl, rfl⟩

theorem CodecMove.xout_unless_walk (h : CodecMove s t) (hp : s.ph ≠ .xWalk) : t.xout = s.xout := by
  cases h with
  | decode _ _ hw | skip hw => exact absurd hw hp
  | _ => rfl

theorem moutByte_congr (h : t.mout = s.mout) (a : Nat) : t.moutByte a = s.moutByte a := by
  rw [State.moutByte, h, State.moutByte]

/-- Settles O25, from the frame of each move. -/
theorem operationFrame : Obligations.OperationFrame := by
  intro s t hs
  have h := codecMove_of_next hs
  obtain ⟨hop, hl, hr, hchunk, hhost, hx, hm⟩ := h.keeps_inputs
  refine ⟨hop, hl, hr, hchunk, hhost, hx, hm, fun hc hw => ?_, h.extractor_of_mixing, h.chunk_unless_read,
    h.xout_unless_walk⟩
  obtain ⟨hlen, hk, hmout⟩ := h.mixer_of_extracting hc hw
  exact ⟨hlen, hk, hmout, moutByte_congr hmout⟩

/-! ## TRUNC and the output of an extraction -/

/-- Only a ragged chunk changes `TRUNC`, and it sets it (R20, R101). -/
theorem CodecMove.trunc_eq_or_ragged (h : CodecMove s t) :
    t.trunc = s.trunc ∨ (t.trunc = true ∧ s.ph = .xRead ∧ t.ph = .xWalk ∧ t.cnt % 4 ≠ 0) := by
  cases h with
  | chunk c bytes hp =>
    by_cases hr : bytes.length % 4 = 0
    · simp [truncAfter, hr]
    · simp [truncAfter, hr, hp]
  | _ => exact .inl rfl

/-- A command changes `TRUNC` only by `START`, at rest, and clears it (R136). -/
theorem exec_trunc {i : Instr} (h : exec i s = .next t) :
    t.trunc = s.trunc ∨ (t.trunc = false ∧ (t.ph = .xOpen ∨ t.ph = .mCheck) ∧ s.ph.atRest = true) := by
  rcases exec_next h with ⟨rfl, _⟩ | ⟨hp, ⟨_, _, rfl⟩ | ⟨_, _, rfl⟩ | ⟨_, rfl⟩⟩
  · exact .inl rfl
  · exact .inr ⟨rfl, .inl rfl, hp⟩
  · exact .inr ⟨rfl, .inl rfl, hp⟩
  · exact .inr ⟨rfl, .inr rfl, hp⟩

/-- An event that is neither a command nor a reset changes only what the host holds, but not its events to come, and the
count of free values. -/
theorem handle_keeps_codec {e : HostEvent} (h : handle e s = .next t) (hr : e ≠ .reset)
    (hc : ∀ b, e ≠ .write .cmd b) :
    { s with host := t.host, draws := t.draws } = t ∧ t.host.pending = s.host.pending := by
  rcases handle_next h with ⟨b, he, _⟩ | ⟨he, _⟩ | ⟨_, _, rfl | ⟨l, r, rfl⟩ | ⟨free, o, rfl⟩⟩
  · exact absurd he (hc b)
  · exact absurd he hr
  all_goals exact ⟨rfl, rfl⟩

/-- Settles O54: `handle_keeps_codec` is the statement. -/
theorem otherEventsLeaveTheCodec : Obligations.OtherEventsLeaveTheCodec := fun _ _ _ => handle_keeps_codec

/-- What a step can do: a command is run, the Codec is reset, another event lands, or the Codec makes a move. -/
theorem step_cases (h : step s = .next t) :
    (∃ b, s.dueEvent = some (.write .cmd b) ∧ exec (decodeByte b) s.popEvent = .next t) ∨
    (s.dueEvent = some .reset ∧ t = s.popEvent.resetCodec) ∨
    (∃ host draws, t = { s with host := host, draws := draws }) ∨
    CodecMove s.tickEvent t := by
  rcases step_next h with ⟨e, hd, he⟩ | ⟨_, he⟩
  · by_cases hr : e = .reset
    · subst hr
      cases he
      exact .inr (.inl ⟨hd, rfl⟩)
    · by_cases hc : ∃ b, e = .write .cmd b
      · obtain ⟨b, rfl⟩ := hc
        exact .inl ⟨b, hd, he⟩
      · have hk := (handle_keeps_codec he hr (fun b hb => hc ⟨b, hb⟩)).1
        exact .inr (.inr (.inl ⟨t.host, t.draws, hk.symm⟩))
  · exact .inr (.inr (.inr (codecMove_of_next he)))

/-- Settles O48, by what a step can do. -/
theorem truncChangesOnlyAsRuled : Obligations.TruncChangesOnlyAsRuled := by
  intro s t hs hne
  rcases step_cases hs with ⟨b, _, he⟩ | ⟨hd, rfl⟩ | ⟨host, draws, rfl⟩ | hm
  · exact .inr ((exec_trunc he).resolve_left hne |>.imp_right .inl)
  · exact .inr ⟨rfl, .inr hd⟩
  · exact absurd rfl hne
  · exact .inl (hm.trunc_eq_or_ragged.resolve_left hne)

/-- A move appends at most one Sample, at the end of `XOUT` (R26). -/
theorem CodecMove.xout_grows (h : CodecMove s t) : ∃ more, t.xout = s.xout ++ more ∧ more.length ≤ 1 := by
  cases h with
  | decode lo hi => exact ⟨[decodeSample lo hi], rfl, le_rfl⟩
  | _ => exact ⟨[], (List.append_nil _).symm, Nat.zero_le 1⟩

/-- A command while busy changes nothing, whichever it is (R137, R138). -/
theorem exec_busy {i : Instr} (h : exec i s = .next t) (hb : s.busy = true) : t = s := by
  rcases exec_next h with ⟨rfl, _⟩ | ⟨hp, _⟩
  · rfl
  · simp [State.busy, hp] at hb

/-- Settles O49, by what a step can do. -/
theorem runningOperationKeepsItsInputs : Obligations.RunningOperationKeepsItsInputs := by
  intro s t hs hb hreset
  rcases step_cases hs with ⟨b, _, he⟩ | ⟨hd, _⟩ | ⟨host, draws, rfl⟩ | hm
  · obtain rfl := exec_busy he hb
    exact ⟨⟨[], by simp⟩, rfl, rfl, rfl⟩
  · exact absurd hd hreset
  · exact ⟨⟨[], by simp⟩, rfl, rfl, rfl⟩
  · obtain ⟨hop, hl, hr, _⟩ := hm.keeps_inputs
    exact ⟨hm.xout_grows, hop, hl, hr⟩

end Sys2Proof.Machine
end

section
/-! PROOFS. The invariants of the state (10_state.md R41): reset meets them, every step keeps them, and a state that keeps
them never faults. Settles O40, O42, O43. -/

namespace Sys2Proof.Safety

open Sys2Proof.Machine

variable {s t : State}

/-- The invariants do not speak of what the host holds or of the count of free values. -/
theorem Inv.with_host_draws (h : Inv s) (host : HostSide) (draws : Nat) :
    Inv { s with host := host, draws := draws } :=
  { h with
    walk := fun hp => { h.walk hp with }
    write := fun hp => (h.write hp).imp fun _ hw => { hw with } }

/-- The reset state of an allowed configuration keeps the invariants, whatever the environment and the host hold. -/
theorem inv_resetWith {n : Nat} (hn : Config.chunkOk n = true) (env : Env) (host : HostSide) (draws : Nat) :
    Inv { State.resetWith n with env := env, host := host, draws := draws } := by
  constructor
  case chunk => exact hn
  case memory => simp [memory_wf_iff, State.resetWith]
  all_goals simp [State.resetWith, holdsStream, State.busy, Phase.atRest]

/-- Settles O40, from `inv_resetWith`. -/
theorem resetMeetsInvariant : Obligations.ResetMeetsInvariant :=
  have hn {n : Nat} (h : Config.chunkOk n = true) : Inv (State.resetWith n) :=
    inv_resetWith h (State.resetWith n).env (State.resetWith n).host 0
  ⟨hn (by decide), fun _ => hn⟩

/-! ## The stream -/

theorem Inv.held_false_of_atRest (h : Inv s) (hp : s.ph.atRest = true) : s.held = false := by
  rw [h.held]
  cases hph : s.ph <;> simp_all [Phase.atRest, holdsStream]

/-- In the phases that hold the stream an extraction runs and the environment has a stream. -/
theorem Inv.holding (h : Inv s) (hp : holdsStream s.ph = true) :
    isMix s = false ∧ s.held = true ∧ s.env.stream.isSome = true :=
  have hheld := h.held.trans hp
  ⟨h.extractUnit (.inr hp), hheld, h.stream hheld⟩

/-! ## START -/

theorem Inv.startExtract (h : Inv s) (hp : s.ph.atRest = true) {w : CmdWord} (hw : w.getLsbD 1 = false) :
    Inv (s.startExtract w) where
  chunk := h.chunk
  memory := h.memory
  held := h.held_false_of_atRest hp
  stream := h.stream
  idle := nofun
  done := nofun
  busy _ := rfl
  walk := nofun
  write := nofun
  extractFailure := nofun
  mixFailure := nofun
  trunc := nofun
  extractUnit _ := hw
  mixUnit := nofun
  opening _ := ⟨rfl, rfl⟩
  checking := nofun
  mixDone := nofun
  started _ := by rw [isMix, State.startExtract_op, hw]; rfl
  command _ := by rintro rfl; cases hw

theorem Inv.startMix (h : Inv s) (hp : s.ph.atRest = true) : Inv (s.startMix 0b10#2) where
  chunk := h.chunk
  memory := h.memory
  held := h.held_false_of_atRest hp
  stream := h.stream
  idle := nofun
  done := nofun
  busy _ := rfl
  walk := nofun
  write := nofun
  extractFailure := nofun
  mixFailure := nofun
  trunc := nofun
  extractUnit := by simp [holdsStream]
  mixUnit _ := by simp [isMix]
  opening := nofun
  checking _ := rfl
  mixDone := nofun
  started _ := by simp [isMix]
  command _ := by simp

/-- A command keeps the invariants. -/
theorem Inv.exec {i : Instr} (h : Inv s) (he : exec i s = .next t) : Inv t := by
  rcases exec_next he with ⟨rfl, _⟩ | ⟨hp, ⟨_, _, rfl⟩ | ⟨_, _, rfl⟩ | ⟨_, rfl⟩⟩
  · exact h
  · exact h.startExtract hp rfl
  · exact h.startExtract hp rfl
  · exact h.startMix hp

/-! ## The moves -/

/-- The clauses that a move of a busy Codec keeps because it leaves the command as it is. -/
structure CommandInv (t : State) : Prop where
  chunk   : Config.chunkOk t.chunkBytes = true
  memory  : Memory.wf t = true
  started : (if isMix t then t.mixed else t.extracted) = true
  command : t.op ≠ 0b11#2

theorem Inv.commandInv (h : Inv s) (hb : s.ph.atRest = false) (hm : CodecMove s t) : CommandInv t := by
  obtain ⟨hop, _, _, hchunk, _, hx, hmx⟩ := hm.keeps_inputs
  have hi : s.ph ≠ .idle := fun hp => by simp [hp, Phase.atRest] at hb
  constructor
  · rw [hchunk]; exact h.chunk
  · exact codecStep_memory_wf h.memory hm.next
  · rw [isMix, hop, hx, hmx]; exact h.started hi
  · rw [hop]; exact h.command hi

/-- A state in which the stream is held. -/
theorem inv_of_holding (hc : CommandInv t) (hx : isMix t = false) (hp : holdsStream t.ph = true) (hh : t.held = true)
    (hs : t.env.stream.isSome = true) (ho : t.outcome = .none) (hw : t.ph = .xWalk → WalkInv t) : Inv t where
  chunk := hc.chunk
  memory := hc.memory
  held := by rw [hp, hh]
  stream _ := hs
  idle _ := ho
  done h := by simp [h, holdsStream] at hp
  busy _ := ho
  walk := hw
  write h := by simp [h, holdsStream] at hp
  extractFailure h := by simp [ho] at h
  mixFailure h := by simp [ho] at h
  trunc _ := hx
  extractUnit _ := hx
  mixUnit h := by rcases h with h | h <;> simp [h, holdsStream] at hp
  opening h := by simp [h, holdsStream] at hp
  checking h := by simp [h, holdsStream] at hp
  mixDone h := by simp [ho] at h
  started _ := hc.started
  command _ := hc.command

/-- A state in which pairs are written. -/
theorem inv_of_writing {m : List (Option Byte)} (hc : CommandInv t) (hx : isMix t = true)
    (hp : t.ph = .mWrite) (hh : t.held = false) (ho : t.outcome = .none) (ht : t.trunc = true → isMix t = false)
    (hw : WriteInv t m) : Inv t where
  chunk := hc.chunk
  memory := hc.memory
  held := by rw [hp, hh]; rfl
  stream h := by simp [hh] at h
  idle _ := ho
  done h := by simp [h] at hp
  busy _ := ho
  walk h := by simp [h] at hp
  write _ := ⟨m, hw⟩
  extractFailure h := by simp [ho] at h
  mixFailure h := by simp [ho] at h
  trunc := ht
  extractUnit h := by simp [hp, holdsStream] at h
  mixUnit _ := hx
  opening h := by simp [h] at hp
  checking h := by simp [h] at hp
  mixDone h := by simp [ho] at h
  started _ := hc.started
  command _ := hc.command

/-- What the end of an operation must have for each outcome (R41 b, f, R127). -/
structure ResultInv (t : State) : Prop where
  done           : t.outcome ≠ .none
  trunc          : t.trunc = true → isMix t = false
  extractFailure : t.outcome = .resourceNotFound ∨ t.outcome = .unsupportedFormat → isMix t = false ∧ t.xout = []
  mixFailure     : t.outcome = .lengthMismatch → isMix t = true ∧ t.mout = none ∧ t.lbuf.length ≠ t.rbuf.length
  mixDone        : t.outcome = .success → isMix t = true →
    t.lbuf.length = t.rbuf.length ∧ t.mout = some ((mixBytes t.lbuf t.rbuf).map some)

/-- A state in which an operation has ended. -/
theorem inv_of_done (hc : CommandInv t) (hp : t.ph = .done) (hh : t.held = false)
    (hr : ResultInv t) : Inv t where
  chunk := hc.chunk
  memory := hc.memory
  held := by rw [hp, hh]; rfl
  stream h := by simp [hh] at h
  idle h := by simp [h] at hp
  done _ := hr.done
  busy h := by simp [State.busy, hp, Phase.atRest] at h
  walk h := by simp [h] at hp
  write h := by simp [h] at hp
  extractFailure := hr.extractFailure
  mixFailure := hr.mixFailure
  trunc := hr.trunc
  extractUnit h := by simp [hp, holdsStream] at h
  mixUnit h := by simp [hp] at h
  opening h := by simp [h] at hp
  checking h := by simp [h] at hp
  mixDone := hr.mixDone
  started _ := hc.started
  command _ := hc.command

/-! ## The walk -/

theorem walkInv_loadChunk {bytes : List Byte} (hne : bytes ≠ []) (hle : bytes.length ≤ s.chunkBytes) :
    WalkInv (s.loadChunk bytes) where
  some_bytes := List.length_pos_iff.mpr hne
  fits := hle
  even := rfl
  bound := Nat.zero_le _

/-- Two bytes on, the offset is still within the whole frames of the chunk: both are multiples of 2 (R106). -/
theorem WalkInv.add_two (h : WalkInv s) (hlt : s.off < walkLimit s.cnt) {xout : List Sample} :
    WalkInv { s with off := s.off + 2, xout := xout } := by
  obtain ⟨hpos, hfits, heven, _⟩ := h
  refine ⟨hpos, hfits, by simp; omega, ?_⟩
  simp only [walkLimit] at hlt ⊢
  omega

/-! ## The bytes of a mix -/

theorem mixBytes_length : ∀ {ls rs : List Sample}, ls.length = rs.length → (mixBytes ls rs).length = 4 * ls.length
  | [], _, _ => rfl
  | _ :: _, [], h => by simp at h
  | _ :: ls, _ :: rs, h => by
    have ih := mixBytes_length (ls := ls) (rs := rs) (by simpa using h)
    simp [mixBytes, encodeFrame, ih]
    omega

/-- One pair more of a mix is its frame more (R120, R124). -/
theorem mixBytes_take_succ {ls rs : List Sample} {k : Nat} {l r : Sample} (hl : ls[k]? = some l) (hr : rs[k]? = some r) :
    (mixBytes ls rs).take (4 * (k + 1)) = (mixBytes ls rs).take (4 * k) ++ encodeFrame l r := by
  rw [Nat.mul_succ, List.take_add, mixBytes_drop k ls rs l r hl hr]
  rfl

theorem writeInv_allocate (he : s.lbuf.length = s.rbuf.length) :
    WriteInv s.allocate (List.replicate (4 * s.lbuf.length) none) where
  allocated := rfl
  left := rfl
  right := he
  bound := Nat.zero_le _
  size := List.length_replicate
  written := rfl

theorem WriteInv.writePair {m : List (Option Byte)} {l r : Sample} (h : WriteInv s m) (hk : s.k < s.len)
    (hl : s.lbuf[s.k]? = some l) (hr : s.rbuf[s.k]? = some r) : WriteInv (s.writePair m l r) (storeFrame m s.k l r) where
  allocated := rfl
  left := h.left
  right := h.right
  bound := hk
  size := by rw [storeFrame_length]; exact h.size
  written := by
    have hlen : 4 * s.k + 3 < m.length := by rw [h.size]; omega
    calc (storeFrame m s.k l r).take (4 * (s.k + 1))
        = m.take (4 * s.k) ++ (encodeFrame l r).map some := storeFrame_take m s.k l r hlen
      _ = ((mixBytes s.lbuf s.rbuf).take (4 * s.k) ++ encodeFrame l r).map some := by rw [h.written, List.map_append]
      _ = ((mixBytes s.lbuf s.rbuf).take (4 * (s.k + 1))).map some := by rw [mixBytes_take_succ hl hr]

/-- With the last pair written `MOUT` is the whole mix (R125, R127). -/
theorem WriteInv.complete {m : List (Option Byte)} (h : WriteInv s m) (hk : s.k = s.len) :
    m = (mixBytes s.lbuf s.rbuf).map some := by
  have hw := h.written
  have hsize : m.length = 4 * s.k := by rw [h.size, hk]
  have hmix : (mixBytes s.lbuf s.rbuf).length = 4 * s.k := by
    rw [mixBytes_length (h.left.symm.trans h.right), ← h.left, hk]
  rwa [List.take_of_length_le hsize.le, List.take_of_length_le hmix.le] at hw

/-- Every move of the Codec keeps the invariants. -/
theorem Inv.move (h : Inv s) (hm : CodecMove s t) : Inv t := by
  by_cases hb : s.ph.atRest = true
  · exact hm.eq_of_atRest hb ▸ h
  rw [Bool.not_eq_true] at hb
  have hc := h.commandInv hb hm
  have ho := h.busy (busy_of hb)
  cases hm with
  | rest => exact h
  | notFound hp =>
    have hx := h.extractUnit (.inl hp)
    have hheld : s.held = false := h.held.trans (by rw [hp]; rfl)
    exact inv_of_done hc rfl hheld ⟨nofun, fun _ => hx, fun _ => ⟨hx, (h.opening hp).1⟩, nofun, nofun⟩
  | refuse hp =>
    have hx := h.extractUnit (.inl hp)
    exact inv_of_done hc rfl rfl ⟨nofun, fun _ => hx, fun _ => ⟨hx, (h.opening hp).1⟩, nofun, nofun⟩
  | accept hp hf =>
    exact inv_of_holding hc (h.extractUnit (.inl hp)) rfl rfl (by simp [State.acquire, hf]) ho nofun
  | endOfData c hp =>
    obtain ⟨hx, hheld, _⟩ := h.holding (by rw [hp]; rfl)
    exact inv_of_holding hc hx rfl hheld rfl ho nofun
  | chunk c bytes hp _ _ hne ha =>
    obtain ⟨hx, hheld, _⟩ := h.holding (by rw [hp]; rfl)
    exact inv_of_holding hc hx rfl hheld rfl ho fun _ => walkInv_loadChunk hne (streamAnswer_length ha)
  | decode _ _ hp hlt | skip hp hlt =>
    have hh : holdsStream s.ph = true := by rw [hp]; rfl
    obtain ⟨hx, hheld, hs⟩ := h.holding hh
    exact inv_of_holding hc hx hh hheld hs ho fun _ => (h.walk hp).add_two hlt
  | endOfChunk hp =>
    obtain ⟨hx, hheld, hs⟩ := h.holding (by rw [hp]; rfl)
    exact inv_of_holding hc hx rfl hheld hs ho nofun
  | close hp =>
    obtain ⟨hx, _, _⟩ := h.holding (by rw [hp]; rfl)
    exact inv_of_done hc rfl rfl
      ⟨nofun, fun _ => hx, nofun, nofun, fun _ hm => absurd (hx.symm.trans hm) Bool.false_ne_true⟩
  | allocate hp he =>
    have hheld : s.held = false := h.held.trans (by rw [hp]; rfl)
    exact inv_of_writing hc (h.mixUnit (.inl hp)) rfl hheld ho h.trunc (writeInv_allocate he)
  | mismatch hp hne =>
    have hheld : s.held = false := h.held.trans (by rw [hp]; rfl)
    exact inv_of_done hc rfl hheld
      ⟨nofun, h.trunc, nofun, fun _ => ⟨h.mixUnit (.inl hp), h.checking hp, hne⟩, nofun⟩
  | pair l r m hp hk hl hr hm =>
    have hheld : s.held = false := h.held.trans (by rw [hp]; rfl)
    obtain ⟨m', hw⟩ := h.write hp
    obtain rfl : m = m' := by simpa [hm] using hw.allocated
    exact inv_of_writing hc (h.mixUnit (.inr hp)) hp hheld ho h.trunc (hw.writePair hk hl hr)
  | complete hp hk =>
    have hheld : s.held = false := h.held.trans (by rw [hp]; rfl)
    obtain ⟨m, hw⟩ := h.write hp
    have hmout : s.mout = some ((mixBytes s.lbuf s.rbuf).map some) := by rw [hw.allocated, hw.complete hk]
    exact inv_of_done hc rfl hheld
      ⟨nofun, h.trunc, nofun, nofun, fun _ _ => ⟨hw.left.symm.trans hw.right, hmout⟩⟩

/-- Settles O42, by what a step can do: each of a command, a reset, another event and a move keeps the invariants. -/
theorem stepKeepsInvariant : Obligations.StepKeepsInvariant := by
  intro s t h hs
  rcases step_cases hs with ⟨b, _, he⟩ | ⟨_, rfl⟩ | ⟨host, draws, rfl⟩ | hm
  · exact Inv.exec (s := s.popEvent) (h.with_host_draws _ _) he
  · exact inv_resetWith h.chunk _ _ _
  · exact h.with_host_draws host draws
  · exact Inv.move (s := s.tickEvent) (h.with_host_draws _ _) hm

/-! ## No fault -/

/-- The bytes of the chunk may be read (R107). -/
theorem chunkByte_isSome (h : Memory.wf s = true) (hf : s.cnt ≤ s.chunkBytes) {i : Nat} (hi : i < s.cnt) :
    ∃ b, s.chunkByte i = some b := by
  rw [memory_wf_iff] at h
  rw [State.chunkByte, if_pos hi]
  exact ⟨_, List.getElem?_eq_getElem (by omega)⟩

theorem Inv.walk_moves (h : Inv s) (hp : s.ph = .xWalk) : ∃ t, CodecMove s t := by
  by_cases hlt : s.off < walkLimit s.cnt
  · cases hon : onChannel (selector s.op) s.off with
    | false => exact ⟨_, .skip hp hlt hon⟩
    | true =>
      have hnext := succ_lt_of_onChannel hon hlt
      have hfits := (h.walk hp).fits
      obtain ⟨lo, hlo⟩ := chunkByte_isSome h.memory hfits (Nat.lt_of_succ_lt hnext)
      obtain ⟨hi, hhi⟩ := chunkByte_isSome h.memory hfits hnext
      exact ⟨_, .decode lo hi hp hlt hon hlo hhi⟩
  · exact ⟨_, .endOfChunk hp (Nat.le_of_not_lt hlt)⟩

theorem Inv.write_moves (h : Inv s) (hp : s.ph = .mWrite) : ∃ t, CodecMove s t := by
  obtain ⟨m, hw⟩ := h.write hp
  rcases hw.bound.lt_or_eq with hk | hk
  · exact ⟨_, .pair _ _ m hp hk (List.getElem?_eq_getElem (hw.left ▸ hk)) (List.getElem?_eq_getElem (hw.right ▸ hk))
      hw.allocated (by rw [hw.size]; omega)⟩
  · exact ⟨_, .complete hp hk⟩

/-- A state that keeps the invariants has a next one: no step rule reads what holds no value (R43). -/
theorem Inv.codecStep_progress (h : Inv s) : ∃ t, codecStep s = .next t := by
  cases hp : s.ph with
  | idle | done => exact ⟨s, codecStep_atRest (by rw [hp]; rfl)⟩
  | xOpen => exact ⟨_, codecStep_xOpen hp⟩
  | xRead =>
    obtain ⟨c, hs⟩ := Option.isSome_iff_exists.mp (h.stream (by rw [h.held, hp]; rfl))
    exact ⟨_, (codecStep_xRead hp).trans (stepXRead_of_stream h.chunk hs)⟩
  | xWalk => exact (h.walk_moves hp).imp fun _ => CodecMove.next
  | xClose => exact ⟨_, codecStep_xClose hp⟩
  | mCheck =>
    by_cases he : s.lbuf.length = s.rbuf.length
    · exact ⟨_, (CodecMove.allocate hp he).next⟩
    · exact ⟨_, (CodecMove.mismatch hp he).next⟩
  | mWrite => exact (h.write_moves hp).imp fun _ => CodecMove.next

/-- A command never faults. -/
theorem exec_ne_fault (i : Instr) (s : State) (f : Fault) : exec i s ≠ .fault f := by
  have hx (w : CmdWord) : startExtraction w s ≠ .fault f := by unfold startExtraction; split <;> nofun
  have ha (o : Host.Outcome State Fault Refusal) (ho : o ≠ .fault f) : whenAtRest s o ≠ .fault f := by
    unfold whenAtRest; split
    · exact ho
    · nofun
  cases i with
  | extractLeft | extractRight => exact ha _ (hx _)
  | mix => exact ha _ nofun
  | reserved => nofun

theorem readRegister_ne_fault (r : Reg) (s : State) (f : Fault) : readRegister r s ≠ .fault f := by
  unfold readRegister
  split
  · nofun
  · split <;> nofun

/-- No event faults: a fault is of a step rule of the Codec. -/
theorem handle_ne_fault (e : HostEvent) (s : State) (f : Fault) : handle e s ≠ .fault f := by
  cases e with
  | write r v =>
    simp only [handle, writeRegister]
    split
    · exact exec_ne_fault _ s f
    · nofun
  | read r => exact readRegister_ne_fault r s f
  | present | takeResult | reset => nofun

/-- Settles O43: an event never faults, and the Codec's own step has a next state. -/
theorem noStepFaults : Obligations.NoStepFaults := by
  intro s f h
  cases hd : s.dueEvent with
  | some e =>
    rw [step_of_dueEvent_some hd]
    exact handle_ne_fault e _ f
  | none =>
    obtain ⟨t, ht⟩ := Inv.codecStep_progress (s := s.tickEvent) (h.with_host_draws _ _)
    rw [step_of_dueEvent_none hd, ht]
    nofun

end Sys2Proof.Safety
end

section
/-! PROOFS. Nothing carries over from one operation to the next (10_state.md R40): a simulation between two Codecs that
run the same operation on the same inputs. Settles O39. -/

namespace Sys2Proof.Safety

open Sys2Proof.Machine

variable {s t s' t' : State}

/-- What the steps from a phase on may read before the operation sets it agrees in two Codecs (R40, R182). -/
def ReadsAgree (s s' : State) : Prop :=
  match s.ph with
  | .idle => True
  | .xOpen => s'.env.sessions = s.env.sessions
  | .xRead => s'.env.stream = s.env.stream
  | .xWalk =>
    s'.env.stream = s.env.stream ∧ s'.cnt = s.cnt ∧ s'.off = s.off ∧ ∀ i, s'.chunkByte i = s.chunkByte i
  | .xClose => True
  | .mCheck => isMix s = true ∧ s'.lbuf = s.lbuf ∧ s'.rbuf = s.rbuf
  | .mWrite => isMix s = true ∧ s'.lbuf = s.lbuf ∧ s'.rbuf = s.rbuf ∧ s'.len = s.len ∧ s'.k = s.k
  | .done => True

/-- Two Codecs that run the same operation on the same inputs: what shows in `STATUS` and in the result agrees, and so does
what is still to be read. Nothing else need agree. -/
structure SameRun (s s' : State) : Prop where
  ph         : s'.ph = s.ph
  op         : s'.op = s.op
  outcome    : s'.outcome = s.outcome
  trunc      : s'.trunc = s.trunc
  held       : s'.held = s.held
  chunkBytes : s'.chunkBytes = s.chunkBytes
  draws      : s'.draws = s.draws
  xout       : isMix s = false → s'.xout = s.xout
  mout       : isMix s = true → s'.mout = s.mout
  reads      : ReadsAgree s s'

theorem openAnswer_congr (hs : s'.env.sessions = s.env.sessions) (hd : s'.draws = s.draws) :
    s'.openAnswer = s.openAnswer := by
  rw [State.openAnswer, hs, hd, State.openAnswer]

theorem streamOpen_draws_congr (hs : s'.env.sessions = s.env.sessions) (hd : s'.draws = s.draws) :
    s'.streamOpen.draws = s.streamOpen.draws := by
  rw [State.streamOpen_draws, hs, hd, State.streamOpen_draws]

theorem streamRead_draws_congr (hd : s'.draws = s.draws) (c : Session) :
    (s'.streamRead c).draws = (s.streamRead c).draws := by
  rw [State.streamRead_draws, hd, State.streamRead_draws]

/-- Whatever the one Codec does in a step the other does too, and they stay alike. -/
theorem SameRun.move (h : SameRun s s') (hm : CodecMove s t) : ∃ t', CodecMove s' t' ∧ SameRun t t' := by
  have hr := h.reads
  cases hm with
  | rest hp => exact ⟨s', .rest (h.ph ▸ hp), h⟩
  | notFound hp hf =>
    simp only [ReadsAgree, hp] at hr
    have ho := openAnswer_congr hr h.draws
    exact ⟨_, .notFound (h.ph.trans hp) (ho ▸ hf),
      { h with ph := rfl, outcome := rfl, draws := streamOpen_draws_congr hr h.draws, reads := trivial }⟩
  | refuse hp hf ha =>
    simp only [ReadsAgree, hp] at hr
    have ho := openAnswer_congr hr h.draws
    exact ⟨_, .refuse (h.ph.trans hp) (ho ▸ hf) (ho ▸ ha),
      { h with
        ph := rfl, outcome := rfl, held := rfl, draws := streamOpen_draws_congr hr h.draws, reads := trivial }⟩
  | accept hp hf ha =>
    simp only [ReadsAgree, hp] at hr
    have ho := openAnswer_congr hr h.draws
    have hstream : s'.streamOpen.env.stream = s.streamOpen.env.stream := by simp [ho, hf]
    exact ⟨_, .accept (h.ph.trans hp) (ho ▸ hf) (ho ▸ ha),
      { h with ph := rfl, held := rfl, draws := streamOpen_draws_congr hr h.draws, reads := hstream }⟩
  | endOfData c hp hc hs ha =>
    simp only [ReadsAgree, hp] at hr
    rw [← h.chunkBytes, ← h.draws] at ha
    exact ⟨_, .endOfData c (h.ph.trans hp) (h.chunkBytes ▸ hc) (hr.trans hs) ha,
      { h with ph := rfl, draws := streamRead_draws_congr h.draws c, reads := trivial }⟩
  | chunk c bytes hp hc hs hne ha =>
    simp only [ReadsAgree, hp] at hr
    rw [← h.chunkBytes, ← h.draws] at ha
    exact ⟨_, .chunk c bytes (h.ph.trans hp) (h.chunkBytes ▸ hc) (hr.trans hs) hne ha,
      { h with
        ph := rfl, draws := streamRead_draws_congr h.draws c, trunc := by simp [h.trunc]
        reads := ⟨by simp [h.chunkBytes], rfl, rfl, fun i => by rw [chunkByte_loadChunk, chunkByte_loadChunk]⟩ }⟩
  | decode lo hi hp hlt hon hlo hhi =>
    simp only [ReadsAgree, hp] at hr
    obtain ⟨hstream, hcnt, hoff, hbyte⟩ := hr
    refine ⟨_, .decode lo hi (h.ph.trans hp) (by rwa [hoff, hcnt]) (by rwa [h.op, hoff])
      (by rwa [hoff, hbyte]) (by rwa [hoff, hbyte]),
      { h with xout := fun hx => by simp [h.xout hx], reads := ?_ }⟩
    simpa only [ReadsAgree, State.appendSample_ph, hp] using ⟨hstream, hcnt, congrArg (· + 2) hoff, hbyte⟩
  | skip hp hlt hon =>
    simp only [ReadsAgree, hp] at hr
    obtain ⟨hstream, hcnt, hoff, hbyte⟩ := hr
    refine ⟨_, .skip (h.ph.trans hp) (by rwa [hoff, hcnt]) (by rwa [h.op, hoff]), { h with reads := ?_ }⟩
    simpa only [ReadsAgree, State.skipSample_ph, hp] using ⟨hstream, hcnt, congrArg (· + 2) hoff, hbyte⟩
  | endOfChunk hp hge =>
    simp only [ReadsAgree, hp] at hr
    obtain ⟨hstream, hcnt, hoff, _⟩ := hr
    exact ⟨_, .endOfChunk (h.ph.trans hp) (by rwa [hoff, hcnt]), { h with ph := rfl, reads := hstream }⟩
  | close hp =>
    exact ⟨_, .close (h.ph.trans hp), { h with ph := rfl, outcome := rfl, held := rfl, reads := trivial }⟩
  | allocate hp he =>
    simp only [ReadsAgree, hp] at hr
    obtain ⟨hmix, hl, hrb⟩ := hr
    exact ⟨_, .allocate (h.ph.trans hp) (by rwa [hl, hrb]),
      { h with
        ph := rfl, mout := fun _ => by simp [hl], reads := ⟨hmix, hl, hrb, congrArg List.length hl, rfl⟩ }⟩
  | mismatch hp hne =>
    simp only [ReadsAgree, hp] at hr
    obtain ⟨_, hl, hrb⟩ := hr
    exact ⟨_, .mismatch (h.ph.trans hp) (by rwa [hl, hrb]),
      { h with ph := rfl, outcome := rfl, reads := trivial }⟩
  | pair l r m hp hk hl hrk hm hlen =>
    simp only [ReadsAgree, hp] at hr
    obtain ⟨hmix, hlb, hrb, hln, hkk⟩ := hr
    refine ⟨_, .pair l r m (h.ph.trans hp) (by rwa [hkk, hln]) (by rwa [hlb, hkk]) (by rwa [hrb, hkk])
      ((h.mout hmix).trans hm) (by rwa [hkk]), { h with mout := fun _ => by simp [hkk], reads := ?_ }⟩
    simpa only [ReadsAgree, State.writePair_ph, hp] using ⟨hmix, hlb, hrb, hln, congrArg (· + 1) hkk⟩
  | complete hp hk =>
    simp only [ReadsAgree, hp] at hr
    obtain ⟨_, _, _, hln, hkk⟩ := hr
    exact ⟨_, .complete (h.ph.trans hp) (by rwa [hkk, hln]),
      { h with ph := rfl, outcome := rfl, reads := trivial }⟩

/-! ## Runs without an event -/

/-- With no event to come a step is the Codec's own. -/
theorem step_of_no_event (h : s.host.pending = []) : step s = codecStep s := by
  have hw : hostWaits s = true := by rw [hostWaits, h]
  rw [step_of_dueEvent_none (by rw [State.dueEvent, h]), tick_of_waits hw]

theorem codecMove_of_step (hq : s.host.pending = []) (hs : step s = .next t) :
    CodecMove s t ∧ t.host.pending = [] := by
  rw [step_of_no_event hq] at hs
  have hm := codecMove_of_next hs
  obtain ⟨_, _, _, _, hhost, _⟩ := hm.keeps_inputs
  exact ⟨hm, hhost ▸ hq⟩

/-- Two Codecs that are alike stay alike along a run that no event interrupts. -/
theorem SameRun.run {n : Nat} (h : SameRun s s') (hq : s.host.pending = []) (hq' : s'.host.pending = [])
    (hr : run n s = .next t) : ∃ t', run n s' = .next t' ∧ SameRun t t' := by
  induction n generalizing s s' with
  | zero =>
    cases hr
    exact ⟨s', rfl, h⟩
  | succ n ih =>
    obtain ⟨u, hs, hr⟩ := run_succ_next hr
    obtain ⟨hm, hqu⟩ := codecMove_of_step hq hs
    obtain ⟨u', hm', hu⟩ := h.move hm
    have hs' : step s' = .next u' := (step_of_no_event hq').trans hm'.next
    obtain ⟨t', hr', ht⟩ := ih hu hqu (codecMove_of_step hq' hs').2 hr
    exact ⟨t', by rw [Safety.run, hs']; exact hr', ht⟩

/-! ## What two alike Codecs show -/

theorem SameRun.status (h : SameRun s s') : s'.status = s.status := by
  simp only [State.status, State.isDone, State.busy, h.ph, h.outcome, h.trunc, h.held]

theorem SameRun.resultBuffer (h : SameRun s s') : s'.resultBuffer = s.resultBuffer := by
  simp only [State.resultBuffer, h.op]
  split
  · rename_i hmix; rw [h.mout hmix]
  · rename_i hmix; rw [h.xout (Bool.eq_false_of_not_eq_true hmix)]

theorem SameRun.result (h : SameRun s s') : s'.result = s.result := by
  simp only [State.result, h.outcome, h.trunc, h.resultBuffer]

/-! ## START makes two Codecs alike -/

/-- The inputs of an operation agree: the operands, the environment's answers, the parameter, `HELD` and the counter of
free values (R16; log 9). -/
structure SameInputs (s s' : State) : Prop where
  left       : s'.host.left = s.host.left
  right      : s'.host.right = s.host.right
  sessions   : s'.env.sessions = s.env.sessions
  draws      : s'.draws = s.draws
  chunkBytes : s'.chunkBytes = s.chunkBytes
  held       : s'.held = s.held

theorem SameInputs.startExtract (h : SameInputs s s') {w : CmdWord} (hw : w.getLsbD 1 = false) :
    SameRun (s.startExtract w) (s'.startExtract w) where
  ph := rfl
  op := rfl
  outcome := rfl
  trunc := rfl
  held := h.held
  chunkBytes := h.chunkBytes
  draws := h.draws
  xout _ := rfl
  mout hm := absurd (hw.symm.trans hm) Bool.false_ne_true
  reads := h.sessions

theorem SameInputs.startMix (h : SameInputs s s') : SameRun (s.startMix 0b10#2) (s'.startMix 0b10#2) where
  ph := rfl
  op := rfl
  outcome := rfl
  trunc := rfl
  held := h.held
  chunkBytes := h.chunkBytes
  draws := h.draws
  xout hx := by simp [isMix] at hx
  mout _ := rfl
  reads := ⟨by simp [isMix], h.left, h.right⟩

/-- `START` of the same operation makes two Codecs alike (R136). -/
theorem SameInputs.exec {i : Instr} (h : SameInputs s s') (hi : i ≠ .reserved) (hp : s.ph.atRest = true)
    (hp' : s'.ph.atRest = true) (ht : exec i s = .next t) (ht' : exec i s' = .next t') : SameRun t t' := by
  have e := exec_next ht
  have e' := exec_next ht'
  cases i with
  | reserved => exact absurd rfl hi
  | extractLeft =>
    obtain ⟨_, rfl⟩ : _ ∧ t = s.startExtract 0b00#2 := by simpa [hp] using e
    obtain ⟨_, rfl⟩ : _ ∧ t' = s'.startExtract 0b00#2 := by simpa [hp'] using e'
    exact h.startExtract rfl
  | extractRight =>
    obtain ⟨_, rfl⟩ : _ ∧ t = s.startExtract 0b01#2 := by simpa [hp] using e
    obtain ⟨_, rfl⟩ : _ ∧ t' = s'.startExtract 0b01#2 := by simpa [hp'] using e'
    exact h.startExtract rfl
  | mix =>
    obtain rfl : t = s.startMix 0b10#2 := by simpa [hp] using e
    obtain rfl : t' = s'.startMix 0b10#2 := by simpa [hp'] using e'
    exact h.startMix

/-- A command leaves the host's side as it is. -/
theorem exec_host {i : Instr} (h : Machine.exec i s = .next t) : t.host = s.host := by
  rcases exec_next h with ⟨rfl, _⟩ | ⟨_, ⟨_, _, rfl⟩ | ⟨_, _, rfl⟩ | ⟨_, rfl⟩⟩ <;> rfl

/-- Settles O39: `START` makes the two Codecs alike, every step keeps them so, and alike Codecs show the same. -/
theorem noStateCarriesOver : Obligations.NoStateCarriesOver := by
  intro i s s' hi hp hp' hl hr hq hq' he hd hc hh t t' n ht ht' u hu
  have hin : SameInputs s s' := ⟨hl.symm, hr.symm, he.symm, hd.symm, hc.symm, hh.symm⟩
  have hrun := hin.exec hi hp hp' ht ht'
  obtain ⟨u', hu', h⟩ := hrun.run (exec_host ht ▸ hq) (exec_host ht' ▸ hq') hu
  exact ⟨u', hu', h.status, h.result⟩

end Sys2Proof.Safety
end

section
/-! PROOFS. What the host sees: the result, its commands and its registers (10_state.md R34 to R37, R44). Settles O11, O12,
O41, O52, O53, O55. -/

namespace Sys2Proof.Safety

open Sys2Proof.Machine

variable {s t : State}

/-! ## The result -/

theorem resultBuffer_of_extraction (h : isMix s = false) : s.resultBuffer = some (.samples s.xout) :=
  if_neg (Bool.eq_false_iff.mp h)

theorem resultBuffer_of_mix (h : isMix s = true) : s.resultBuffer = (s.mout.bind writtenBytes).map .bytes := if_pos h

theorem result_buffer_of_success (h : s.outcome = .success) : s.result.buffer = s.resultBuffer := if_pos h

/-- Settles O55: the record's buffer by outcome and unit; a mix that has succeeded has all its bytes by the invariants. -/
theorem resultHandOver : Obligations.ResultHandOver := by
  intro s hp
  have hd : s.isDone = true := by rw [State.isDone, hp]; rfl
  refine ⟨?_, rfl, rfl, fun hne => if_neg hne, fun hs hx => ?_, fun hs hm hinv => ?_⟩
  · rw [handle, takeResult, if_pos hd]
  · rw [result_buffer_of_success hs, resultBuffer_of_extraction hx]
  · obtain ⟨_, hmout⟩ := hinv.mixDone hs hm
    refine ⟨_, hmout, ?_⟩
    rw [result_buffer_of_success hs, resultBuffer_of_mix hm, hmout, Option.bind_some, writtenBytes_map, Option.map_some]

/-! ## Commands -/

/-- Settles O11: the write is the event that is due, and its byte is the command. -/
theorem stepRunsDecodedCommand : Obligations.StepRunsDecodedCommand := by
  intro s p rest b i hpend hev hdue hdec
  have he : s.dueEvent = some (.write .cmd b) := by simp [State.dueEvent, hpend, hdue, hev]
  have hi : decodeByte b = i := by simpa [decode] using hdec
  calc step s = exec (decodeByte b) s.popEvent := step_of_dueEvent_some he
    _ = exec i { s with host := { s.host with pending := rest } } := by rw [hi, State.popEvent, hpend, List.tail_cons]

/-- Settles O12, from `stepRunsDecodedCommand`: the placed byte is the first event and due at once. -/
theorem placedWordRuns : Obligations.PlacedWordRuns := by
  intro s nbits w i hw
  have hdec : decode [tableByte nbits w] = .ok (i, []) := by simpa [decodeTableWord, decode] using hw
  exact stepRunsDecodedCommand (s.withFetchWord nbits w) _ s.host.pending _ i rfl rfl rfl hdec

/-! ## Registers -/

/-- Settles O41, by evaluation of the one state. -/
theorem resetState : Obligations.ResetState := by
  unfold Obligations.ResetState
  decide

/-- The bits of `STATUS` below `OUTCOME` and above it (R35). -/
theorem status_bits (s : State) :
    s.status.getLsbD 0 = s.busy ∧ s.status.getLsbD 1 = s.isDone ∧ s.status.getLsbD 5 = s.trunc ∧
      s.status.getLsbD 6 = s.held ∧ s.status.getLsbD 7 = false := by
  simp only [State.status, BitVec.getLsbD_append, BitVec.getLsbD_ofBool]
  simp

theorem status_outcome (s : State) : s.status.extractLsb' 2 3 = outcomeBits s.outcome := by
  apply BitVec.eq_of_getLsbD_eq
  intro i hi
  have hsub : 2 + i - 1 - 1 = i := by omega
  simp only [State.status, BitVec.getLsbD_extractLsb', BitVec.getLsbD_append]
  rw [if_neg (by omega), if_neg (by omega), hsub, if_pos hi, decide_eq_true hi, Bool.true_and]

/-- Settles O52, from the bits of `STATUS`; `BUSY` and `DONE` are decided by the phase. -/
theorem statusFields : Obligations.StatusFields := by
  intro s
  obtain ⟨hbusy, hdone, htrunc, hheld, htop⟩ := status_bits s
  rw [hbusy, hdone]
  refine ⟨?_, rfl, status_outcome s, htrunc, hheld, htop, ?_, ?_, fun _ => rfl, rfl, rfl⟩
  · cases hp : s.ph <;> simp [State.busy, hp, Phase.atRest]
  · cases hp : s.ph <;> simp [State.busy, State.isDone, hp, Phase.atRest]
  · cases hp : s.ph <;> simp [State.busy, State.isDone, hp, Phase.atRest]

theorem handle_read_of_value {r : Reg} {v : Nat} (hr : r ≠ .cmd) (h : registerValue r s = some v) :
    handle (.read r) s = .next (s.observe (.register r v)) := by
  simp [handle, readRegister, hr, h]

theorem handle_read_of_no_value {r : Reg} (hr : r ≠ .cmd) (h : registerValue r s = none) :
    handle (.read r) s =
      .next ({ s with draws := s.draws + 1 }.observe (.register r (Config.freeRegister s.draws))) := by
  simp [handle, readRegister, hr, h, State.draw]

/-- Settles O53: a register that holds a value gives it, and one that holds none gives a free one. -/
theorem registerReads : Obligations.RegisterReads := by
  intro s
  refine ⟨rfl, rfl, fun hm => ⟨?_, ?_, fun hn => ?_, fun m hm' => ?_⟩, fun hx => ?_, fun hm r hr => ?_, fun hx => ?_⟩
  · exact handle_read_of_value nofun (if_pos hm)
  · exact handle_read_of_value nofun (if_pos hm)
  · exact handle_read_of_value nofun (by simp [registerValue, State.moutLength, hm, hn])
  · exact handle_read_of_value nofun (by simp [registerValue, State.moutLength, hm, hm'])
  · exact handle_read_of_value nofun (if_pos hx)
  · rcases hr with rfl | rfl | rfl <;> exact handle_read_of_no_value nofun (by simp [registerValue, hm])
  · exact handle_read_of_no_value nofun (by simp [registerValue, hx])

end Sys2Proof.Safety
end

section
/-! PROOFS. Samples and their bytes, command words, the bytes of a mix by index, and what a read takes from a stream
(30_encoding.md R75 to R83, R88). Settles O1, O2, O3, O4, O5, O17, O34. -/

namespace Sys2Proof.Machine

/-! ## Command words -/

theorem encoding_statement : ∀ i : Instr, Laws.Encoding.Statement i
  | .extractLeft => Laws.Encoding.extractLeft
  | .extractRight => Laws.Encoding.extractRight
  | .mix => Laws.Encoding.mix
  | .reserved => Laws.Encoding.reserved

@[simp] theorem decodeByte_encodeByte (i : Instr) : decodeByte (encodeByte i) = i := by
  obtain ⟨_, hbits, hword, _⟩ := encoding_statement i
  rw [decodeByte, hbits, hword]

theorem decode_encode_append (i : Instr) (rest : List Byte) : decode (encode i ++ rest) = .ok (i, rest) := by
  obtain ⟨_, _, _, hdecode, _⟩ := encoding_statement i
  exact hdecode rest

/-- The opcode map is one to one on its four words (R83). -/
theorem encodeWord_decodeWord : ∀ w : CmdWord, encodeWord (decodeWord w) = w := by decide

@[simp] theorem encodeByte_decodeByte (b : Byte) : encodeByte (decodeByte b) = (cmdBits b).setWidth 8 := by
  rw [encodeByte, decodeByte, encodeWord_decodeWord]

theorem decodeProgram_eq_map (bs : List Byte) : decodeProgram bs = bs.map decodeByte := by
  induction bs with
  | nil => rfl
  | cons b bs ih => rw [decodeProgram, ih, List.map_cons]

theorem encodeProgram_eq_map (p : List Instr) : encodeProgram p = p.map encodeByte := by
  induction p with
  | nil => rfl
  | cons i p ih => rw [encodeProgram, ih, List.map_cons, encode, List.singleton_append]

theorem decodeProgram_encodeProgram (p : List Instr) : decodeProgram (encodeProgram p) = p := by
  simp [decodeProgram_eq_map, encodeProgram_eq_map, Function.comp_def]

theorem encodeProgram_decodeProgram (bs : List Byte) :
    encodeProgram (decodeProgram bs) = bs.map fun b => (cmdBits b).setWidth 8 := by
  simp [decodeProgram_eq_map, encodeProgram_eq_map]

/-- Settles O5: both program codecs are maps of the byte codecs, which are inverse up to the ignored upper bits. -/
theorem programDecodeEncode : Obligations.ProgramDecodeEncode :=
  ⟨decodeProgram_encodeProgram, encodeProgram_decodeProgram, decode_encode_append⟩

/-- The upper bits of a byte written to `CMD` are ignored (R34). -/
theorem decode_append_word (up : BitVec 6) (w : CmdWord) : decode [up ++ w] = .ok (decodeWord w, []) := by
  have hbits : cmdBits (up ++ w) = w := BitVec.extractLsb'_append_eq_right
  rw [decode, decodeByte, hbits]

/-- Settles O4, word by word of the opcode map. -/
theorem commandWordsDecode : Obligations.CommandWordsDecode := fun up =>
  ⟨decode_append_word up 0b00#2, decode_append_word up 0b01#2, decode_append_word up 0b10#2, decode_append_word up 0b11#2⟩

/-! ## Samples -/

theorem decodeSample_toInt (lo hi : Byte) : (decodeSample lo hi).toInt = 256 * hi.toInt + lo.toNat := by
  rw [decodeSample_eq_append, BitVec.toInt_append]
  rfl

/-- Settles O1: the sign of a Sample is that of its high byte. -/
theorem decodeSampleValue : Obligations.DecodeSampleValue := by
  intro lo hi
  rw [decodeSample_toInt, BitVec.toInt_eq_toNat_cond]
  constructor
  · intro h
    rw [if_pos (by omega)]
    omega
  · intro h
    rw [if_neg (by omega)]
    omega

/-- Settles O2, by the value of a bit field. -/
theorem encodeSampleBytes : Obligations.EncodeSampleBytes := by
  intro s
  constructor
  · rw [encodeSample, BitVec.extractLsb'_toNat, Nat.shiftRight_zero]
  · rw [encodeSample, BitVec.extractLsb'_toNat, Nat.shiftRight_eq_div_pow]

@[simp] theorem decodeSample_encodeSample (s : Sample) : decodeSample (encodeSample s).1 (encodeSample s).2 = s := by
  rw [decodeSample_eq_append]
  exact BitVec.extractLsb'_append_extractLsb'

@[simp] theorem encodeSample_decodeSample (lo hi : Byte) : encodeSample (decodeSample lo hi) = (lo, hi) := by
  rw [decodeSample_eq_append]
  exact Prod.ext BitVec.extractLsb'_append_eq_right BitVec.extractLsb'_append_eq_left

/-- Settles O3: a Sample is its high byte above its low byte. -/
theorem sampleCodecInverse : Obligations.SampleCodecInverse := ⟨decodeSample_encodeSample, encodeSample_decodeSample⟩

/-! ## The bytes of a mix -/

/-- Byte `j` of frame `k` of a mix (R75). -/
theorem mixBytes_getElem? {ls rs : List Sample} {k j : Nat} {l r : Sample} (hl : ls[k]? = some l) (hr : rs[k]? = some r)
    (hj : j < 4) : (mixBytes ls rs)[4 * k + j]? = (encodeFrame l r)[j]? := by
  rw [← List.getElem?_drop, mixBytes_drop k ls rs l r hl hr, List.getElem?_append_left (by simpa [encodeFrame] using hj)]

/-- Settles O34, frame by frame. -/
theorem mixBytesByIndex : Obligations.MixBytesByIndex := by
  intro ls rs h
  refine ⟨Safety.mixBytes_length h, fun k l r hl hr => ?_⟩
  have hbyte {j : Nat} (hj : j < 4) := mixBytes_getElem? hl hr hj
  exact ⟨hbyte (j := 0) (by decide), hbyte (by decide), hbyte (by decide), hbyte (by decide)⟩

/-! ## Reads of a stream -/

/-- The end of data is answered only when nothing is left (R146). -/
theorem bytes_of_streamAnswer_eos {n draw : Nat} {c : Session} (h : streamAnswer n draw c = .eos) : c.bytes = [] := by
  unfold streamAnswer at h
  split at h
  · rename_i hseg
    rw [Session.bytes, hseg, List.flatten_nil]
  · cases h

/-- What is left of a stream after a read of at most `n` bytes of its next piece (R58). -/
theorem streamAfter_bytes {n : Nat} {c : Session} {seg : List Byte} {rest : List (List Byte)}
    (hc : c.segments = seg :: rest) : (streamAfter n c).bytes = seg.drop n ++ rest.flatten := by
  simp only [streamAfter, hc]
  split
  · rename_i hle
    rw [Session.bytes, List.drop_of_length_le hle, List.nil_append]
  · rw [Session.bytes, List.flatten_cons]

/-- A read takes its answer from the front of what is left (R88, R141). -/
theorem bytes_eq_answer_append {n draw : Nat} {c : Session} {bytes : List Byte} (he : c.endless = false)
    (h : streamAnswer n draw c = .data bytes) : c.bytes = bytes ++ (streamAfter n c).bytes := by
  cases hc : c.segments with
  | nil => simp [streamAnswer, hc, he] at h
  | cons seg rest =>
    obtain rfl : seg.take n = bytes := by simpa [streamAnswer, hc] using h
    rw [streamAfter_bytes hc, ← List.append_assoc, List.take_append_drop, Session.bytes, hc, List.flatten_cons]

/-- Settles O17, by the next piece of the stream. -/
theorem readsDeliverStreamInOrder : Obligations.ReadsDeliverStreamInOrder := fun _ _ _ =>
  ⟨fun _ => streamAnswer_length, fun _ => bytes_eq_answer_append, bytes_of_streamAnswer_eos⟩

end Sys2Proof.Machine
end

section
/-! PROOFS. The Extractor's steps X_OPEN, X_READ, X_WALK and X_CLOSE (40_extractor.md R100 to R104, R107), and what each
outcome is caused by (60_exceptions.md R155 to R163). Settles O15, O16, O18, O19, O20, O21, O47. -/

namespace Sys2Proof.Machine

variable {s t : State}

/-! ## X_OPEN -/

theorem openAnswer_of_sessions {c : Session} {later : List Session} (h : s.env.sessions = c :: later) :
    s.openAnswer = c := by
  rw [State.openAnswer, h]

theorem openAnswer_of_no_sessions (h : s.env.sessions = []) : s.openAnswer = Config.freeSession s.draws := by
  rw [State.openAnswer, h]

/-- Settles O15: the three arms are the three moves of X_OPEN. -/
theorem openStep : Obligations.OpenStep := by
  intro s c draws later hp hsessions
  have hc : s.openAnswer = c := by
    rcases hsessions with ⟨hs, _⟩ | ⟨hs, _, rfl, _⟩
    · exact openAnswer_of_sessions hs
    · exact openAnswer_of_no_sessions hs
  have hopen : s.streamOpen = { s with
      env := { sessions := later
               stream := if c.descriptor.found then some c else s.env.stream
               requests := s.env.requests ++ [.streamOpen] }
      draws := draws } := by
    rcases hsessions with ⟨hs, rfl⟩ | ⟨hs, rfl, _, rfl⟩ <;> simp [State.streamOpen, hc, hs]
  refine ⟨fun hf => ?_, fun hf ha => ?_, fun hf hparsable hbits hchannels => ?_⟩
  · rw [(CodecMove.notFound hp (hc ▸ hf)).next, hopen]
    simp [State.raise, hf]
  · have hrefused : formatAccepted c.descriptor = false := by rwa [← Bool.not_eq_true, formatAccepted_iff]
    rw [(CodecMove.refuse hp (hc ▸ hf) (hc ▸ hrefused)).next, hopen]
    simp [State.raise, State.release, State.acquire]
  · have haccepted := (formatAccepted_iff c.descriptor).mpr ⟨hparsable, hbits, hchannels⟩
    rw [(CodecMove.accept hp (hc ▸ hf) (hc ▸ haccepted)).next, hopen]
    simp [State.acquire, hf]

/-! ## X_READ -/

theorem truncAfter_eq_ite (trunc : Bool) (n : Nat) : truncAfter trunc n = if n % 4 = 0 then trunc else true := by
  by_cases h : n % 4 = 0 <;> simp [truncAfter, h]

/-- Settles O16: the two arms are the two moves of X_READ. -/
theorem readStep : Obligations.ReadStep := by
  intro s c hp hchunk hs
  refine ⟨(s.streamRead c).draws, fun ha => ?_, fun bytes ha hne => ?_⟩
  · exact (CodecMove.endOfData c hp hchunk hs ha).next
  · rw [(CodecMove.chunk c bytes hp hchunk hs hne ha).next, State.loadChunk, truncAfter_eq_ite]
    rfl

/-! ## X_WALK -/

/-- The offsets of the channel a command word selects (R84, R94). -/
theorem onChannel_selector_iff (w : CmdWord) (o : Nat) :
    onChannel (selector w) o = true ↔ o % 4 = if w.getLsbD 0 then 2 else 0 := by
  rw [onChannel, beq_iff_eq, selector]
  cases w.getLsbD 0 <;> rfl

theorem chunkByte_of_cbuf {i : Nat} {b : Byte} (hi : i < s.cnt) (hb : s.cbuf[i]? = some b) :
    s.chunkByte i = some b := by
  rw [State.chunkByte, if_pos hi, hb]

/-- Settles O18: below the limit the moves of X_WALK are told apart by the channel of the offset. -/
theorem walkStep : Obligations.WalkStep := by
  intro s lo hi hp hlt
  refine ⟨fun heven => by omega, fun ho hlo hhi => ?_, fun ho => ?_⟩
  · have hon := (onChannel_selector_iff s.op s.off).mpr ho
    have hnext := succ_lt_of_onChannel hon hlt
    exact (CodecMove.decode lo hi hp hlt hon (chunkByte_of_cbuf (Nat.lt_of_succ_lt hnext) hlo)
      (chunkByte_of_cbuf hnext hhi)).next
  · have hoff : onChannel (selector s.op) s.off = false := by rwa [← Bool.not_eq_true, onChannel_selector_iff]
    exact (CodecMove.skip hp hlt hoff).next

/-- Settles O19: it is the last move of X_WALK. -/
theorem walkEndsAtLimit : Obligations.WalkEndsAtLimit := fun _ hp hge => (CodecMove.endOfChunk hp hge).next

/-- `s` with other bytes in `CBUF` at and above `CNT`. -/
def State.withStale (stale : List Byte) (s : State) : State := { s with cbuf := s.cbuf.take s.cnt ++ stale }

/-- The bytes of the current chunk are below `CNT` (R107). -/
theorem chunkByte_withStale (hfit : s.cnt ≤ s.cbuf.length) (stale : List Byte) (i : Nat) :
    (s.withStale stale).chunkByte i = s.chunkByte i := by
  show (if i < s.cnt then (s.cbuf.take s.cnt ++ stale)[i]? else none) = if i < s.cnt then s.cbuf[i]? else none
  split
  · rename_i hi
    rw [List.getElem?_append_left (by rw [List.length_take]; omega), List.getElem?_take_of_lt hi]
  · rfl

theorem stepXWalk_withStale (hfit : s.cnt ≤ s.cbuf.length) (stale : List Byte) (h : stepXWalk s = .next t) :
    stepXWalk (s.withStale stale) = .next { t with cbuf := s.cbuf.take s.cnt ++ stale } := by
  rcases stepXWalk_next h with ⟨hlt, hon, lo, hi, hlo, hhi, rfl⟩ | ⟨hlt, hon, rfl⟩ | ⟨hge, rfl⟩
  · rw [← chunkByte_withStale hfit stale] at hlo hhi
    exact stepXWalk_decode (s := s.withStale stale) hlt hon hlo hhi
  · exact stepXWalk_skip (s := s.withStale stale) hlt hon
  · exact stepXWalk_end (s := s.withStale stale) hge

/-- The walk goes on whenever `CBUF` holds the chunk. -/
theorem stepXWalk_progress (hfit : s.cnt ≤ s.cbuf.length) : ∃ t, stepXWalk s = .next t := by
  have hbyte {i : Nat} (hi : i < s.cnt) : s.chunkByte i = some s.cbuf[i] :=
    chunkByte_of_cbuf hi (List.getElem?_eq_getElem _)
  by_cases hlt : s.off < walkLimit s.cnt
  · cases hon : onChannel (selector s.op) s.off with
    | false => exact ⟨_, stepXWalk_skip hlt hon⟩
    | true =>
      have hnext := succ_lt_of_onChannel hon hlt
      exact ⟨_, stepXWalk_decode hlt hon (hbyte (Nat.lt_of_succ_lt hnext)) (hbyte hnext)⟩
  · exact ⟨_, stepXWalk_end (Nat.le_of_not_lt hlt)⟩

/-- Settles O21: a walk reads only the bytes of the chunk, and finds all it reads. -/
theorem staleBytesHaveNoEffect : Obligations.StaleBytesHaveNoEffect := by
  intro s stale hp hfit
  rw [codecStep_xWalk hp]
  refine ⟨fun t ht => ?_, fun f hf => ?_⟩
  · exact (codecStep_xWalk (s := s.withStale stale) hp).trans (stepXWalk_withStale hfit stale ht)
  · obtain ⟨t, ht⟩ := stepXWalk_progress hfit
    cases ht.symm.trans hf

/-! ## X_CLOSE -/

/-- Settles O20: it is the move of X_CLOSE. -/
theorem closeStep : Obligations.CloseStep := fun _ hp => (CodecMove.close hp).next

/-! ## Outcomes -/

/-- A move that writes an outcome ends the operation, and each outcome has its one cause (R155 to R159, R163). -/
theorem CodecMove.outcome_eq_or_ends (h : CodecMove s t) :
    t.outcome = s.outcome ∨
    t.ph = .done ∧
      (t.outcome = .resourceNotFound ∧ s.ph = .xOpen ∧ s.openAnswer.descriptor.found = false ∨
       t.outcome = .unsupportedFormat ∧ s.ph = .xOpen ∧ s.openAnswer.descriptor.found = true ∧
         formatAccepted s.openAnswer.descriptor = false ∨
       t.outcome = .lengthMismatch ∧ s.ph = .mCheck ∧ s.lbuf.length ≠ s.rbuf.length ∨
       t.outcome = .success ∧ (s.ph = .xClose ∨ s.ph = .mWrite ∧ s.k = s.len)) := by
  cases h with
  | notFound hp hf => exact .inr ⟨rfl, .inl ⟨rfl, hp, hf⟩⟩
  | refuse hp hf ha => exact .inr ⟨rfl, .inr (.inl ⟨rfl, hp, hf, ha⟩)⟩
  | mismatch hp hne => exact .inr ⟨rfl, .inr (.inr (.inl ⟨rfl, hp, hne⟩))⟩
  | close hp => exact .inr ⟨rfl, .inr (.inr (.inr ⟨rfl, .inl hp⟩))⟩
  | complete hp hk => exact .inr ⟨rfl, .inr (.inr (.inr ⟨rfl, .inr ⟨hp, hk⟩⟩))⟩
  | _ => exact .inl rfl

/-- A command changes the outcome only by `START`, at rest, and clears it (R136). -/
theorem exec_outcome {i : Instr} (h : exec i s = .next t) :
    t.outcome = s.outcome ∨ (t.outcome = .none ∧ s.ph.atRest = true ∧ (t.ph = .xOpen ∨ t.ph = .mCheck)) := by
  rcases exec_next h with ⟨rfl, _⟩ | ⟨hp, ⟨_, _, rfl⟩ | ⟨_, _, rfl⟩ | ⟨_, rfl⟩⟩
  · exact .inl rfl
  · exact .inr ⟨rfl, hp, .inl rfl⟩
  · exact .inr ⟨rfl, hp, .inl rfl⟩
  · exact .inr ⟨rfl, hp, .inr rfl⟩

/-- Settles O47, by what a step can do: only `START`, a reset and the moves that end an operation write an outcome. -/
theorem outcomesHaveTheirCauses : Obligations.OutcomesHaveTheirCauses := by
  intro s t hs hne
  rcases step_cases hs with ⟨b, hd, he⟩ | ⟨hd, rfl⟩ | ⟨host, draws, rfl⟩ | hm
  · obtain ⟨ho, hp, hph⟩ := (exec_outcome he).resolve_left hne
    rw [ho]
    exact ⟨nofun, nofun, nofun, nofun, fun _ => .inl ⟨hp, hph, b, hd⟩⟩
  · exact ⟨nofun, nofun, nofun, nofun, fun _ => .inr ⟨rfl, hd⟩⟩
  · exact absurd rfl hne
  · obtain ⟨hdone, ⟨ho, hp, hf⟩ | ⟨ho, hp, hf, ha⟩ | ⟨ho, hp, hl⟩ | ⟨ho, hcause⟩⟩ :=
      hm.outcome_eq_or_ends.resolve_left hne
    all_goals rw [ho]
    · exact ⟨fun _ => ⟨hp, hf, hdone⟩, nofun, nofun, nofun, nofun⟩
    · exact ⟨nofun, fun _ => ⟨hp, hf, ha, hdone⟩, nofun, nofun, nofun⟩
    · exact ⟨nofun, nofun, fun _ => ⟨hp, hl, hdone⟩, nofun, nofun⟩
    · exact ⟨nofun, nofun, nofun, fun _ => ⟨hcause, hdone⟩, nofun⟩

end Sys2Proof.Machine
end

section
/-! PROOFS. Whole extractions (40_extractor.md R97, R106 to R118): the chunks of a finite stream read one after another,
the run from START to DONE, and its result at the transaction level. Settles O26, O27, O31, O36, O37. -/

namespace Sys2Proof.Machine

open Sys2Proof.Safety

variable {s t : State} {c : Session}

/-! ## The chunks a stream answers -/

theorem chunkOk_iff (n : Nat) : Config.chunkOk n = true ↔ 4 ≤ n ∧ n % 4 = 0 := by
  simp [Config.chunkOk]

theorem chunkOk_pos {n : Nat} (h : Config.chunkOk n = true) : 0 < n :=
  Nat.lt_of_lt_of_le (by decide) ((chunkOk_iff n).mp h).1

/-- No chunk is left exactly when the next read answers the end of data (R141). -/
theorem endOfData_of_chunksOf_nil {n : Nat} (draw : Nat) (hn : 0 < n) (he : c.endless = false)
    (h : chunksOf n c.segments = []) : streamAnswer n draw c = .eos ∨ streamAnswer n draw c = .data [] := by
  cases hc : c.segments with
  | nil => exact .inl (by simp [streamAnswer, hc, he])
  | cons seg rest =>
    rw [hc, chunksOf_cons n hn] at h
    have hseg : seg = [] := by
      by_contra hne
      rw [if_neg hne] at h
      split at h <;> cases h
    exact .inr (by simp [streamAnswer, hc, hseg])

/-- The next chunk is what the next read answers, and the others are those of what is left (R58). -/
theorem streamAnswer_of_chunksOf_cons {n : Nat} {b : List Byte} {bs : List (List Byte)} (draw : Nat) (hn : 0 < n)
    (h : chunksOf n c.segments = b :: bs) :
    b ≠ [] ∧ streamAnswer n draw c = .data b ∧ chunksOf n (streamAfter n c).segments = bs := by
  cases hc : c.segments with
  | nil => rw [hc] at h; cases h
  | cons seg rest =>
    rw [hc, chunksOf_cons n hn] at h
    by_cases hseg : seg = []
    · rw [if_pos hseg] at h; cases h
    rw [if_neg hseg] at h
    by_cases hle : seg.length ≤ n
    · rw [if_pos hle] at h
      cases h
      simp [streamAnswer, streamAfter, hc, hseg, hle, List.take_of_length_le]
    · rw [if_neg hle] at h
      cases h
      simp [streamAnswer, streamAfter, hc, hseg, hle, Nat.pos_iff_ne_zero.mp hn]

theorem streamAfter_endless (n : Nat) (c : Session) : (streamAfter n c).endless = c.endless := by
  unfold streamAfter
  split
  · rfl
  · split <;> rfl

/-! ## From X_READ to X_CLOSE -/

/-- `s` back in X_READ, once it has read the chunk `b` from the stream `c` and walked it. -/
def State.afterChunk (s : State) (c : Session) (b : List Byte) : State :=
  { (s.streamRead c).loadChunk b with
    ph := .xRead, off := walkLimit b.length, xout := s.xout ++ samplesOf (selector s.op) b }

/-- One chunk read and walked (R101 to R103). -/
theorem readChunk_reach {b : List Byte} (hw : hostWaits s = true) (hp : s.ph = .xRead)
    (hk : Config.chunkOk s.chunkBytes = true) (hs : s.env.stream = some c) (hne : b ≠ [])
    (ha : streamAnswer s.chunkBytes s.draws c = .data b) :
    Reach (b.length / 4 * 2 + 1 + 1) s (s.afterChunk c b) :=
  Reach.step hw (busy_of (by rw [hp]; rfl)) (CodecMove.chunk c b hp hk hs hne ha).next (chunk_reach hw rfl rfl rfl rfl)

/-- `s` in X_CLOSE, once it has read `chunks` and the end of data. What no rule reads before it is written again (the
chunk buffer, its counters, the rest of the stream, the counter of free values) is as in `v`. -/
def State.drained (s : State) (chunks : List (List Byte)) (v : State) : State :=
  { s with
    ph := .xClose
    xout := s.xout ++ samplesOfChunks (selector s.op) chunks
    trunc := s.trunc || raggedChunks chunks
    env := { s.env with
             stream := v.env.stream
             requests := s.env.requests ++ List.replicate (chunks.length + 1) (.streamRead s.chunkBytes) }
    cbuf := v.cbuf, cnt := v.cnt, off := v.off, draws := v.draws }

/-- The steps from the first read to the one that answers the end of data (R114). -/
def drainSteps (chunks : List (List Byte)) : Nat :=
  chunks.length + 1 + (chunks.map fun b => b.length / 4 * 2 + 1).sum

theorem drainSteps_cons (b : List Byte) (bs : List (List Byte)) :
    drainSteps (b :: bs) = b.length / 4 * 2 + 1 + 1 + drainSteps bs := by
  simp only [drainSteps, List.length_cons, List.map_cons, List.sum_cons]
  omega

theorem extractSteps_eq (chunks : List (List Byte)) : extractSteps chunks = drainSteps chunks + 1 + 1 := by
  simp only [extractSteps, drainSteps]
  omega

/-- To drain the rest after one chunk is to drain all. -/
theorem drained_cons (s : State) (c : Session) (b : List Byte) (bs : List (List Byte)) (v : State) :
    (s.afterChunk c b).drained bs v = s.drained (b :: bs) v := by
  simp [State.drained, State.afterChunk, State.loadChunk, State.streamRead, samplesOfChunks, raggedChunks,
    truncAfter, Bool.or_assoc, List.replicate_succ]

/-- The reads and walks of a finite stream, chunk by chunk, up to the end of data (R114, R117). -/
theorem drain_reach {chunks : List (List Byte)} (hw : hostWaits s = true) (hp : s.ph = .xRead)
    (hk : Config.chunkOk s.chunkBytes = true) (hs : s.env.stream = some c) (he : c.endless = false)
    (hc : chunksOf s.chunkBytes c.segments = chunks) : ∃ v, Reach (drainSteps chunks) s (s.drained chunks v) := by
  have hn := chunkOk_pos hk
  induction chunks generalizing s c with
  | nil =>
    have hmove := CodecMove.endOfData c hp hk hs (endOfData_of_chunksOf_nil s.draws hn he hc)
    have hlast : { s.streamRead c with ph := .xClose } = s.drained [] (s.streamRead c) := by
      simp [State.drained, State.streamRead, samplesOfChunks, raggedChunks]
    exact ⟨_, hlast ▸ Reach.one hw (busy_of (by rw [hp]; rfl)) hmove.next⟩
  | cons b bs ih =>
    obtain ⟨hne, ha, hrest⟩ := streamAnswer_of_chunksOf_cons s.draws hn hc
    have hchunk := readChunk_reach hw hp hk hs hne ha
    obtain ⟨v, hdrain⟩ := ih (s := s.afterChunk c b) (c := streamAfter s.chunkBytes c) hw rfl hk rfl
      ((streamAfter_endless _ _).trans he) hrest hn
    exact ⟨v, drainSteps_cons b bs ▸ drained_cons s c b bs v ▸ hchunk.trans hdrain⟩

/-! ## From START to DONE -/

/-- The command of an extraction of the channel (R83, R84). -/
theorem exec_extraction {i : Instr} {ch : Channel}
    (hi : i = .extractLeft ∧ ch = .left ∨ i = .extractRight ∧ ch = .right) (hp : s.ph.atRest = true)
    (hk : Config.chunkOk s.chunkBytes = true) :
    ∃ w : CmdWord, exec i s = .next (s.startExtract w) ∧ selector w = ch ∧ w.getLsbD 1 = false := by
  rcases hi with ⟨rfl, rfl⟩ | ⟨rfl, rfl⟩
  · exact ⟨0b00#2, by simp [exec, execExtractLeft, whenAtRest, startExtraction, hp, hk], rfl, rfl⟩
  · exact ⟨0b01#2, by simp [exec, execExtractRight, whenAtRest, startExtraction, hp, hk], rfl, rfl⟩

/-- `s` in X_READ, once an extraction with the word `w` has been started and its stream accepted (R100). -/
def State.accepted (s : State) (w : CmdWord) : State := { (s.startExtract w).streamOpen.acquire with ph := .xRead }

/-- `s` at the end of an extraction with the word `w` that was accepted and has read `chunks`, up to what `v` leaves
behind. -/
def State.extractionEnd (s : State) (w : CmdWord) (chunks : List (List Byte)) (v : State) : State :=
  ((s.accepted w).drained chunks v).release.succeed

/-- An accepted extraction from its first step to `DONE`, busy all the way (R114). -/
theorem extraction_reach (w : CmdWord) {later : List Session} (hk : Config.chunkOk s.chunkBytes = true)
    (hw : hostWaits s = true) (hs : s.env.sessions = c :: later) (he : c.endless = false)
    (hf : c.descriptor.found = true) (ha : formatAccepted c.descriptor = true) :
    ∃ v, Reach (extractSteps (chunksOf s.chunkBytes c.segments)) (s.startExtract w)
      (s.extractionEnd w (chunksOf s.chunkBytes c.segments) v) := by
  obtain rfl : s.openAnswer = c := openAnswer_of_sessions hs
  obtain ⟨v, hdrain⟩ := drain_reach (s := s.accepted w) hw rfl hk (if_pos hf) he rfl
  have hopen := (CodecMove.accept (s := s.startExtract w) rfl hf ha).next
  have hclose : Reach 1 ((s.accepted w).drained (chunksOf s.chunkBytes s.openAnswer.segments) v)
      (s.extractionEnd w (chunksOf s.chunkBytes s.openAnswer.segments) v) :=
    Reach.one hw rfl (CodecMove.close rfl).next
  exact ⟨v, extractSteps_eq _ ▸ Reach.step (s := s.startExtract w) hw rfl hopen (hdrain.trans hclose)⟩

/-- Settles O26: START, the open step, the chunks one after another, the close step. -/
theorem extractionOfAnyChunks : Obligations.ExtractionOfAnyChunks := by
  intro i ch s c later hi hp hk hw hs he hf ha
  obtain ⟨w, hexec, rfl, _⟩ := exec_extraction hi hp hk
  obtain ⟨v, hreach⟩ := extraction_reach w hk hw hs he hf ha
  refine ⟨_, _, hexec, hreach.run, hreach.busy, rfl, rfl, rfl, rfl, rfl, congrArg List.tail hs, ?_,
    rfl, rfl, rfl, rfl, rfl, rfl⟩
  simp [State.extractionEnd, State.drained, State.accepted, extractRequests]

/-! ## Samples of chunks and of the whole stream -/

/-- Whole frames in front of a byte sequence are decoded on their own (R106). -/
theorem samplesOf_append (ch : Channel) : ∀ a b : List Byte, a.length % 4 = 0 →
    samplesOf ch (a ++ b) = samplesOf ch a ++ samplesOf ch b
  | [], _, _ => rfl
  | b0 :: b1 :: b2 :: b3 :: a, b, h => by
    have ih := samplesOf_append ch a b (by simp only [List.length_cons] at h; omega)
    simp only [List.cons_append, samplesOf_cons, ih]
  | [_], _, h | [_, _], _, h | [_, _, _], _, h => by simp at h

theorem samplesOf_length (ch : Channel) (b : List Byte) : (samplesOf ch b).length = b.length / 4 := by
  simp [samplesOf]

/-- Chunks of whole frames but for the last come to the same Samples and the same `TRUNC` as the bytes in one piece
(R117, R145). -/
theorem chunks_eq_flatten (ch : Channel) : ∀ chunks : List (List Byte),
    (∀ b ∈ chunks.dropLast, b.length % 4 = 0) →
    samplesOfChunks ch chunks = samplesOf ch chunks.flatten ∧
      raggedChunks chunks = (chunks.flatten.length % 4 != 0)
  | [], _ => ⟨rfl, rfl⟩
  | [b], _ => by simp [samplesOfChunks, raggedChunks]
  | b :: b' :: bs, h => by
    obtain ⟨hsamples, hragged⟩ := chunks_eq_flatten ch (b' :: bs) fun x hx => h x (List.mem_cons_of_mem _ hx)
    have hb : b.length % 4 = 0 := h b List.mem_cons_self
    constructor
    · rw [List.flatten_cons, samplesOf_append ch _ _ hb, ← hsamples]
      rfl
    · rw [List.flatten_cons, List.length_append, Nat.add_mod, hb, Nat.zero_add, Nat.mod_mod, ← hragged]
      simp [raggedChunks, hb]

/-- The record after an accepted extraction (R44). -/
theorem extractionEnd_result {w : CmdWord} (hunit : w.getLsbD 1 = false) (chunks : List (List Byte)) (v : State) :
    (s.extractionEnd w chunks v).result =
      { outcome := .success, buffer := some (.samples (samplesOfChunks (selector w) chunks))
        trunc := raggedChunks chunks } := by
  rw [State.result, resultBuffer_of_extraction (s := s.extractionEnd w chunks v) hunit]
  rfl

/-- Under the weaker contract the chunks come to what `extract` makes of the whole stream (R97, R145). -/
theorem extract_eq_of_wholeFrames {n : Nat} (ch : Channel) (hwhole : wholeFrames n c)
    (hf : c.descriptor.found = true) (ha : formatAccepted c.descriptor = true) :
    extract c.descriptor c.bytes ch =
      { outcome := .success, buffer := some (.samples (samplesOfChunks ch (chunksOf n c.segments)))
        trunc := raggedChunks (chunksOf n c.segments) } := by
  obtain ⟨_, hframes, hbytes⟩ := hwhole
  obtain ⟨hsamples, hragged⟩ := chunks_eq_flatten ch _ hframes
  rw [extract, if_pos hf, if_pos ha, hsamples, hragged, hbytes]

/-- Settles O27: a refused open ends at once, an accepted extraction ends as `extraction_reach` says. -/
theorem extractionRefinesTransaction : Obligations.ExtractionRefinesTransaction := by
  intro i ch s c later hi hp hk hw hheld hs hwhole
  obtain ⟨w, hexec, rfl, hunit⟩ := exec_extraction hi hp hk
  have hopen : (s.startExtract w).openAnswer = c := openAnswer_of_sessions hs
  cases hf : c.descriptor.found with
  | false =>
    have hmove := (CodecMove.notFound (s := s.startExtract w) rfl (hopen ▸ hf)).next
    have hreach := Reach.one (s := s.startExtract w) hw rfl hmove
    exact ⟨1, _, _, hexec, hreach.run, hreach.busy, rfl, hheld, by simp [State.result, extract, hf]⟩
  | true =>
    cases ha : formatAccepted c.descriptor with
    | false =>
      have hmove := (CodecMove.refuse (s := s.startExtract w) rfl (hopen ▸ hf) (hopen ▸ ha)).next
      have hreach := Reach.one (s := s.startExtract w) hw rfl hmove
      exact ⟨1, _, _, hexec, hreach.run, hreach.busy, rfl, rfl, by simp [State.result, extract, hf, ha]⟩
    | true =>
      obtain ⟨v, hreach⟩ := extraction_reach w hk hw hs hwhole.1 hf ha
      exact ⟨_, _, _, hexec, hreach.run, hreach.busy, rfl, rfl,
        (extractionEnd_result hunit _ v).trans (extract_eq_of_wholeFrames _ hwhole hf ha).symm⟩

/-- Settles O31: no chunk is read, and the record holds the Samples of none. -/
theorem emptyStreamGivesEmptyBuffer : Obligations.EmptyStreamGivesEmptyBuffer := by
  intro i s c later hi hp hk hw hs he hf hparsable hbits hchannels hempty
  obtain ⟨ch, hch⟩ : ∃ ch, i = .extractLeft ∧ ch = Channel.left ∨ i = .extractRight ∧ ch = .right :=
    hi.elim (fun h => ⟨.left, .inl ⟨h, rfl⟩⟩) fun h => ⟨.right, .inr ⟨h, rfl⟩⟩
  obtain ⟨w, hexec, _, hunit⟩ := exec_extraction hch hp hk
  have hchunks : chunksOf s.chunkBytes c.segments = [] := by
    rcases hempty with h | ⟨rest, h⟩ <;> rw [h]
    · rfl
    · rw [chunksOf_cons _ (chunkOk_pos hk), if_pos rfl]
  have ha := (formatAccepted_iff c.descriptor).mpr ⟨hparsable, hbits, hchannels⟩
  obtain ⟨v, hreach⟩ := extraction_reach w hk hw hs he hf ha
  rw [hchunks] at hreach
  exact ⟨_, _, hexec, hreach.run, rfl, extractionEnd_result hunit [] v⟩

/-! ## Extraction and mix -/

/-- The channels of the bytes of a mix are its operands (R118). -/
theorem samplesOf_mixBytes : ∀ {ls rs : List Sample}, ls.length = rs.length →
    samplesOf .left (mixBytes ls rs) = ls ∧ samplesOf .right (mixBytes ls rs) = rs
  | [], [], _ => ⟨rfl, rfl⟩
  | l :: ls, r :: rs, h => by
    obtain ⟨hl, hr⟩ := samplesOf_mixBytes (Nat.succ.inj h)
    simp [mixBytes, encodeFrame, samplesOf_cons, hl, hr]

/-- Settles O36: the bytes of a mix are whole frames of its operands. -/
theorem extractInvertsMix : Obligations.ExtractInvertsMix := by
  intro d ls rs hlen hf ha
  obtain ⟨hl, hr⟩ := samplesOf_mixBytes hlen
  simp [extract, hf, ha, hl, hr, mixBytes_length hlen]

/-- An allowed chunk size is a number of whole frames, so full chunks are whole frames (R10, R145). -/
theorem wholeFrames_of_fullChunks {n : Nat} (hn : Config.chunkOk n = true) (h : fullChunks n c) : wholeFrames n c := by
  obtain ⟨he, hfull, hbytes⟩ := h
  exact ⟨he, fun b hb => hfull b hb ▸ ((chunkOk_iff n).mp hn).2, hbytes⟩

/-- An accepted extraction of full chunks succeeds with a Sample for each whole frame (R109). -/
theorem extraction_length {i : Instr} {ch : Channel} {later : List Session}
    (hi : i = .extractLeft ∧ ch = .left ∨ i = .extractRight ∧ ch = .right) (hp : s.ph.atRest = true)
    (hk : Config.chunkOk s.chunkBytes = true) (hw : hostWaits s = true) (hs : s.env.sessions = c :: later)
    (hfull : fullChunks s.chunkBytes c) (hf : c.descriptor.found = true) (ha : formatAccepted c.descriptor = true) :
    ∃ n t u, exec i s = .next t ∧ run n t = .next u ∧ u.ph = .done ∧ u.outcome = .success ∧
      u.xout.length = c.bytes.length / 4 := by
  obtain ⟨he, hframes, hbytes⟩ := wholeFrames_of_fullChunks hk hfull
  obtain ⟨t, u, hexec, hrun, _, hdone, hsuccess, _, hxout, _⟩ :=
    extractionOfAnyChunks i ch s c later hi hp hk hw hs he hf ha
  refine ⟨_, t, u, hexec, hrun, hdone, hsuccess, ?_⟩
  rw [hxout, (chunks_eq_flatten ch _ hframes).1, hbytes, samplesOf_length]

/-- Settles O37: each channel has a Sample for each whole frame of the stream. -/
theorem channelsHaveEqualLength : Obligations.ChannelsHaveEqualLength := by
  intro s s' c later later' hp hp' hk hk' hw hw' hs hs' hfull hfull' hf ha
  obtain ⟨n, t, u, hexec, hrun, hdone, hsuccess, hlen⟩ :=
    extraction_length (.inl ⟨rfl, rfl⟩) hp hk hw hs hfull hf ha
  obtain ⟨n', t', u', hexec', hrun', hdone', hsuccess', hlen'⟩ :=
    extraction_length (.inr ⟨rfl, rfl⟩) hp' hk' hw' hs' hfull' hf ha
  exact ⟨n, n', t, t', u, u', hexec, hexec', hrun, hrun', hdone, hdone', hsuccess, hsuccess', hlen, hlen'⟩

end Sys2Proof.Machine
end

section
/-! PROOFS. The Channel Mixer (41_mixer.md R120 to R133): its steps M_CHECK and M_WRITE, the run of a mix from START to
DONE and its result at the transaction level, and the round trip of a byte sequence through its two channels. Settles O22,
O23, O24, O32, O35, O51. -/

namespace Sys2Proof.Machine

open Sys2Proof.Safety

variable {s : State}

/-! ## M_CHECK and M_WRITE -/

/-- Settles O22: the two arms are the two moves of M_CHECK. -/
theorem checkStep : Obligations.CheckStep := fun _ hp =>
  ⟨fun hne => (CodecMove.mismatch hp hne).next, fun he => (CodecMove.allocate hp he).next⟩

/-- Byte `j` of the four that a pair writes is byte `j` of its frame (R124). -/
theorem storeFrame_getElem?_frame {m : List (Option Byte)} {k j : Nat} (l r : Sample) (hm : 4 * k + 3 < m.length)
    (hj : j < 4) : (storeFrame m k l r)[4 * k + j]? = (encodeFrame l r)[j]?.map some := by
  have hprefix : (m.take (4 * k)).length = 4 * k := by rw [List.length_take]; omega
  calc (storeFrame m k l r)[4 * k + j]?
      = ((storeFrame m k l r).take (4 * (k + 1)))[4 * k + j]? := (List.getElem?_take_of_lt (by omega)).symm
    _ = ((encodeFrame l r).map some)[4 * k + j - 4 * k]? := by
      rw [storeFrame_take m k l r hm, List.getElem?_append_right (by omega), hprefix]
    _ = (encodeFrame l r)[j]?.map some := by rw [Nat.add_sub_cancel_left, List.getElem?_map]

/-- Settles O23: `MOUT` after the move is `storeFrame`, whose bytes are those of the frame at `4K` and the old ones
elsewhere. -/
theorem writeStep : Obligations.WriteStep := by
  intro s m l r hp hk hl hr hm hlen
  have hfit : 4 * s.k + 3 < m.length := by omega
  have hbyte {j : Nat} (hj : j < 4) := storeFrame_getElem?_frame l r hfit hj
  exact ⟨storeFrame m s.k l r, (CodecMove.pair l r m hp hk hl hr hm hfit).next, storeFrame_length m s.k l r,
    hbyte (j := 0) (by decide), hbyte (by decide), hbyte (by decide), hbyte (by decide),
    fun _ => storeFrame_outside m s.k l r⟩

/-- Settles O24: it is the last move of M_WRITE. -/
theorem writeEndStep : Obligations.WriteEndStep := fun _ hp hk => (CodecMove.complete hp hk).next

/-! ## The result of a mix -/

/-- With every byte of `MOUT` written, the result of a mix is those bytes (R44, R127). -/
theorem resultBuffer_of_written {b : List Byte} (hm : isMix s = true) (hmout : s.mout = some (b.map some)) :
    s.resultBuffer = some (.bytes b) := by
  rw [resultBuffer_of_mix hm, hmout, Option.bind_some, writtenBytes_map, Option.map_some]

/-- Settles O51, by the outcome: at `DONE` the invariants leave a mix only `SUCCESS` and `LENGTH_MISMATCH`. -/
theorem mixAllOrNothing : Obligations.MixAllOrNothing := by
  intro s h hp hm
  have not_extraction : ¬ (s.outcome = .resourceNotFound ∨ s.outcome = .unsupportedFormat) := fun hf =>
    absurd ((h.extractFailure hf).1.symm.trans hm) Bool.false_ne_true
  cases ho : s.outcome with
  | none => exact absurd ho (h.done hp)
  | success =>
    obtain ⟨hlen, hmout⟩ := h.mixDone ho hm
    exact .inl ⟨rfl, hlen, (result_buffer_of_success ho).trans (resultBuffer_of_written hm hmout)⟩
  | resourceNotFound => exact absurd (.inl ho) not_extraction
  | unsupportedFormat => exact absurd (.inr ho) not_extraction
  | lengthMismatch =>
    obtain ⟨_, hmout, hlen⟩ := h.mixFailure ho
    exact .inr ⟨rfl, hlen, hmout, by simp [State.result, ho]⟩

/-! ## From START to DONE -/

/-- `START` of a mix at rest is always taken (R136). -/
theorem exec_mix (hp : s.ph.atRest = true) : exec .mix s = .next (s.startMix 0b10#2) := if_pos hp

/-- `s` at the end of a mix of its operands that has written every pair (R125). -/
def State.mixEnd (s : State) : State :=
  { s with mout := some ((mixBytes s.lbuf s.rbuf).map some), k := s.len, outcome := .success, ph := .done }

/-- With the last pair written the end of the mix is one step away (R125). -/
theorem mixEnd_eq_succeed {m : List (Option Byte)} (h : WriteInv s m) (hk : s.k = s.len) :
    s.mixEnd = s.succeed := by
  have hmout : s.mout = some ((mixBytes s.lbuf s.rbuf).map some) := h.complete hk ▸ h.allocated
  rw [State.mixEnd, State.succeed, ← hmout, ← hk]

/-- From any point of M_WRITE on, a step for each pair still to write and one to end (R124, R125). -/
theorem write_reach {n : Nat} {m : List (Option Byte)} (hw : hostWaits s = true) (hp : s.ph = .mWrite)
    (h : WriteInv s m) (hn : s.k + n = s.len) : Reach (n + 1) s s.mixEnd := by
  have hbusy : s.busy = true := busy_of (by rw [hp]; rfl)
  induction n generalizing s m with
  | zero => exact mixEnd_eq_succeed h hn ▸ Reach.one hw hbusy (CodecMove.complete hp hn).next
  | succ n ih =>
    have hk : s.k < s.len := by omega
    obtain ⟨l, hl⟩ : ∃ l, s.lbuf[s.k]? = some l := ⟨_, List.getElem?_eq_getElem (h.left ▸ hk)⟩
    obtain ⟨r, hr⟩ : ∃ r, s.rbuf[s.k]? = some r := ⟨_, List.getElem?_eq_getElem (h.right ▸ hk)⟩
    have hmove := CodecMove.pair l r m hp hk hl hr h.allocated (by rw [h.size]; omega)
    have hrest : Reach (n + 1) (s.writePair m l r) s.mixEnd :=
      ih (s := s.writePair m l r) hw hp (h.writePair hk hl hr) (by simp; omega) hbusy
    exact Reach.step hw hbusy hmove.next hrest

/-- A mix of operands of one length from its first step to `DONE`, busy all the way (R133). -/
theorem mix_reach (w : CmdWord) (hw : hostWaits s = true) (he : s.host.left.length = s.host.right.length) :
    Reach (s.host.left.length + 2) (s.startMix w) (s.startMix w).allocate.mixEnd :=
  have hwrite := write_reach (s := (s.startMix w).allocate) hw rfl (writeInv_allocate (s := s.startMix w) he)
    (Nat.zero_add _)
  Reach.step (s := s.startMix w) hw rfl (CodecMove.allocate (s := s.startMix w) rfl he).next hwrite

/-- The record after a mix of operands of one length is that of the transaction (R120, R130). -/
theorem mixEnd_result {w : CmdWord} (hunit : w.getLsbD 1 = true)
    (he : s.host.left.length = s.host.right.length) :
    (s.startMix w).allocate.mixEnd.result = mixBuffers s.host.left s.host.right := by
  rw [State.result, resultBuffer_of_written (s := (s.startMix w).allocate.mixEnd) hunit rfl, mixBuffers, if_pos he]
  rfl

/-- Settles O32: by the two lengths, either `mix_reach` or the one step of M_CHECK that ends the mix. -/
theorem mixRefinesTransaction : Obligations.MixRefinesTransaction := by
  intro s hp hw
  by_cases he : s.host.left.length = s.host.right.length
  · have hreach := mix_reach 0b10#2 hw he
    exact ⟨_, _, _, (if_pos he).symm, exec_mix hp, hreach.run, hreach.busy, rfl, mixEnd_result (by decide) he,
      rfl, rfl, rfl, rfl, rfl, rfl, rfl, rfl⟩
  · have hmove := (CodecMove.mismatch (s := s.startMix 0b10#2) rfl he).next
    have hreach := Reach.one (s := s.startMix 0b10#2) hw rfl hmove
    exact ⟨_, _, _, (if_neg he).symm, exec_mix hp, hreach.run, hreach.busy, rfl, by simp [State.result, mixBuffers, he],
      rfl, rfl, rfl, rfl, rfl, rfl, rfl, rfl⟩

/-! ## The round trip -/

/-- The mix of the two channels of any bytes is their whole frames (R131). -/
theorem mixBytes_samplesOf : ∀ b : List Byte,
    mixBytes (samplesOf .left b) (samplesOf .right b) = b.take (4 * (b.length / 4))
  | b0 :: b1 :: b2 :: b3 :: b => by
    have ih := mixBytes_samplesOf b
    have hlen : 4 * ((b0 :: b1 :: b2 :: b3 :: b).length / 4) = 4 * (b.length / 4) + 4 := by
      simp only [List.length_cons]; omega
    rw [hlen, samplesOf_cons, samplesOf_cons, mixBytes, ih]
    simp [encodeFrame]
  | [] | [_] | [_, _] | [_, _, _] => by simp [samplesOf_short, mixBytes]

/-- Settles O35: the channels have equal length, and their mix is the whole frames of the bytes. -/
theorem roundTrip : Obligations.RoundTrip := by
  intro b
  have hlen : (samplesOf .left b).length = (samplesOf .right b).length := by rw [samplesOf_length, samplesOf_length]
  rw [mixBuffers, if_pos hlen, mixBytes_samplesOf, List.take_eq_self_iff]
  exact ⟨rfl, by omega⟩

end Sys2Proof.Machine
end

section
/-! PROOFS. Commands (42_host_and_stream_ops.md R136 to R138), the phase graph (R150), the requests to the environment
(R139 to R145) and the duties of the host (R154). Settles O6, O7, O8, O10, O13, O28, O44, O45, O46, O50. -/

namespace Sys2Proof.Machine

open Sys2Proof.Safety

variable {s t : State} {i : Instr} {e : HostEvent}

/-! ## Commands -/

theorem exec_extractLeft (hp : s.ph.atRest = true) (hk : Config.chunkOk s.chunkBytes = true) :
    exec .extractLeft s = .next (s.startExtract 0b00#2) := by
  simp [exec, execExtractLeft, whenAtRest, startExtraction, hp, hk]

theorem exec_extractRight (hp : s.ph.atRest = true) (hk : Config.chunkOk s.chunkBytes = true) :
    exec .extractRight s = .next (s.startExtract 0b01#2) := by
  simp [exec, execExtractRight, whenAtRest, startExtraction, hp, hk]

theorem whenAtRest_of_busy (hp : s.ph.atRest = false) (start : Host.Outcome State Fault Refusal) :
    whenAtRest s start = .next s :=
  if_neg (Bool.eq_false_iff.mp hp)

/-- Settles O6: `START` of each unit writes the fields of R136 and the bit of log 8. -/
theorem startBeginsOperation : Obligations.StartBeginsOperation := fun _ hp =>
  ⟨fun hk => ⟨⟨true, exec_extractLeft hp hk⟩, ⟨true, exec_extractRight hp hk⟩⟩, ⟨true, exec_mix hp⟩⟩

/-- Settles O7, command by command: the three that start a unit do so only at rest. -/
theorem startWhileBusyChangesNothing : Obligations.StartWhileBusyChangesNothing := by
  intro i s hp
  cases i with
  | extractLeft | extractRight | mix => exact whenAtRest_of_busy hp _
  | reserved => rfl

theorem handle_write_cmd (b : Byte) (s : State) : handle (.write .cmd b) s = exec (decodeByte b) s := rfl

/-- Settles O8: a byte with the low bits `0b11` decodes to the reserved command. -/
theorem reservedChangesNothing : Obligations.ReservedChangesNothing := by
  refine fun s => ⟨rfl, fun b hb => ?_⟩
  rw [handle_write_cmd, decodeByte, hb]
  rfl

/-! ## What a command leaves as it was -/

theorem exec_keeps (h : exec i s = .next t) :
    t.held = s.held ∧ t.cbuf = s.cbuf ∧ t.cnt = s.cnt ∧ t.off = s.off ∧ t.len = s.len ∧ t.k = s.k ∧
      t.chunkBytes = s.chunkBytes ∧ t.draws = s.draws := by
  rcases exec_next h with ⟨rfl, _⟩ | ⟨_, ⟨_, _, rfl⟩ | ⟨_, _, rfl⟩ | ⟨_, rfl⟩⟩ <;>
    exact ⟨rfl, rfl, rfl, rfl, rfl, rfl, rfl, rfl⟩

theorem exec_env (h : exec i s = .next t) : t.env = s.env := by
  rcases exec_next h with ⟨rfl, _⟩ | ⟨_, ⟨_, _, rfl⟩ | ⟨_, _, rfl⟩ | ⟨_, rfl⟩⟩ <;> rfl

/-- Only `START` of a mix touches the Mixer's buffers (R136, log 27). -/
theorem exec_keeps_mixer (h : exec i s = .next t) (hi : i ≠ .mix) :
    t.lbuf = s.lbuf ∧ t.rbuf = s.rbuf ∧ t.mixed = s.mixed ∧ t.mout = s.mout := by
  rcases exec_next h with ⟨rfl, _⟩ | ⟨_, ⟨_, _, rfl⟩ | ⟨_, _, rfl⟩ | ⟨hm, _⟩⟩
  · exact ⟨rfl, rfl, rfl, rfl⟩
  · exact ⟨rfl, rfl, rfl, rfl⟩
  · exact ⟨rfl, rfl, rfl, rfl⟩
  · exact absurd hm hi

/-- Only `START` of an extraction touches the Extractor's output (R136, log 27). -/
theorem exec_keeps_extractor (h : exec i s = .next t) (hi : i = .mix ∨ i = .reserved) :
    t.xout = s.xout ∧ t.extracted = s.extracted := by
  rcases exec_next h with ⟨rfl, _⟩ | ⟨_, ⟨rfl, _, _⟩ | ⟨rfl, _, _⟩ | ⟨_, rfl⟩⟩
  · exact ⟨rfl, rfl⟩
  · cases hi <;> contradiction
  · cases hi <;> contradiction
  · exact ⟨rfl, rfl⟩

theorem eq_of_exec_reserved (h : exec .reserved s = .next t) : t = s := by
  cases h
  rfl

/-- Settles O10, from the frame of each unit. -/
theorem commandFrame : Obligations.CommandFrame := by
  intro i s t h
  obtain ⟨hheld, hcbuf, hcnt, hoff, hlen, hk, hchunk, hdraws⟩ := exec_keeps h
  refine ⟨hheld, hcbuf, hcnt, hoff, hlen, hk, hchunk, exec_env h, exec_host h, hdraws, fun hi => ?_,
    exec_keeps_extractor h, fun hi => ?_⟩
  · obtain ⟨hl, hr, hmixed, hmout⟩ := exec_keeps_mixer h hi
    exact ⟨hl, hr, hmixed, hmout, moutByte_congr hmout⟩
  · subst hi
    obtain rfl := eq_of_exec_reserved h
    exact ⟨rfl, rfl, rfl, rfl⟩

/-! ## Steps without an event -/

/-- While the Codec is busy an event that waits for a step of it does not land (log 23). -/
theorem dueEvent_of_after_succ {n : Nat} {rest : List Pending}
    (h : s.host.pending = { timing := .after (n + 1), event := e } :: rest) (hb : s.busy = true) :
    s.dueEvent = none := by
  have hp : s.ph.atRest = false := by simpa [State.busy] using hb
  simp [State.dueEvent, h, isDue, hp]

/-- Settles O13: no event is due, so the step is the Codec's own, after a tick. -/
theorem stepIsCodecStep : Obligations.StepIsCodecStep := by
  refine fun s => ⟨step_busy, fun n e rest hpend hb => ?_⟩
  rw [step_of_dueEvent_none (dueEvent_of_after_succ hpend hb), State.tickEvent, hpend]
  rfl

/-! ## Full chunks -/

/-- A stream in one piece comes in full chunks but for the last, and in order (R145). -/
theorem chunksOf_singleton {n : Nat} (hn : 0 < n) (b : List Byte) :
    (∀ x ∈ (chunksOf n [b]).dropLast, x.length = n) ∧ (chunksOf n [b]).flatten = b := by
  rw [chunksOf_cons n hn]
  by_cases hb : b = []
  · simp [hb]
  rw [if_neg hb]
  by_cases hle : b.length ≤ n
  · rw [if_pos hle]
    exact ⟨nofun, List.append_nil b⟩
  rw [if_neg hle]
  obtain ⟨hfull, hflat⟩ := chunksOf_singleton hn (b.drop n)
  constructor
  · have hrest : chunksOf n [b.drop n] ≠ [] := by
      intro hnil
      rw [hnil, List.flatten_nil, eq_comm, List.drop_eq_nil_iff] at hflat
      exact hle hflat
    have hfirst : (b.take n).length = n := List.length_take_of_le (by omega)
    rw [List.dropLast_cons_of_ne_nil hrest]
    exact List.forall_mem_cons.mpr ⟨hfirst, hfull⟩
  · rw [List.flatten_cons, hflat, List.take_append_drop]
termination_by b.length
decreasing_by rw [List.length_drop]; omega

/-- Settles O28, from the chunks of one piece and `wholeFrames_of_fullChunks`. -/
theorem fullChunksSuffice : Obligations.FullChunksSuffice := by
  refine fun n c hn => ⟨fun b hc he => ?_, wholeFrames_of_fullChunks hn⟩
  obtain ⟨hfull, hflat⟩ := chunksOf_singleton (chunkOk_pos hn) b
  rw [← hc] at hfull hflat
  exact ⟨he, hfull, by rw [hflat, Session.bytes, hc, List.flatten_singleton]⟩

/-! ## The phase graph -/

/-- A move follows an arrow of the phase graph, or the Codec is at rest (R150, R178). -/
theorem CodecMove.arrow_or_rest (h : CodecMove s t) :
    codecArrow s.ph t.ph = true ∨ s.ph.atRest = true ∧ t.ph = s.ph := by
  cases h with
  | rest hp => exact .inr ⟨hp, rfl⟩
  | notFound hp | refuse hp | accept hp | endOfData _ hp | chunk _ _ hp | decode _ _ hp | skip hp | endOfChunk hp
  | close hp | allocate hp | mismatch hp | pair _ _ _ hp | complete hp => exact .inl (by simp [hp, codecArrow])

/-- A command follows a `START` arrow, or keeps the phase (R136 to R138). -/
theorem exec_startArrow (h : exec i s = .next t) : startArrow s.ph t.ph = true ∧ i.wf = true ∨ t.ph = s.ph := by
  rcases exec_next h with ⟨rfl, _⟩ | ⟨hp, ⟨rfl, _, rfl⟩ | ⟨rfl, _, rfl⟩ | ⟨rfl, rfl⟩⟩
  · exact .inr rfl
  all_goals exact .inl ⟨by simp [startArrow, hp], rfl⟩

theorem handle_keeps_ph (h : handle e s = .next t) (hr : e ≠ .reset) (hc : ∀ b, e ≠ .write .cmd b) :
    t.ph = s.ph := by
  rw [← (handle_keeps_codec h hr hc).1]

/-- Settles O45, by what a step can do: a move, a command, a reset or another event. -/
theorem phaseGraphComplete : Obligations.PhaseGraphComplete := by
  intro s t hs
  rcases step_next hs with ⟨e, hd, he⟩ | ⟨hd, hstep⟩ <;> rw [hd]
  · rcases handle_next he with ⟨b, rfl, hexec⟩ | ⟨rfl, rfl⟩ | ⟨hc, hr, _⟩
    · exact exec_startArrow (s := s.popEvent) hexec
    · rfl
    · have hph := handle_keeps_ph he hr hc
      split
      case h_1 heq => cases heq
      case h_2 b heq => exact absurd (Option.some.inj heq) (hc b)
      case h_3 heq => exact absurd (Option.some.inj heq) hr
      case h_4 => exact hph
  · exact (codecMove_of_next hstep).arrow_or_rest

/-- Settles O46: by the invariants there is a move, and the move of a busy Codec follows an arrow. -/
theorem busyPhasesAdvance : Obligations.BusyPhasesAdvance := by
  intro s h hb
  obtain ⟨t, ht⟩ := h.codecStep_progress
  have not_rest : ¬ (s.ph.atRest = true ∧ t.ph = s.ph) := fun ⟨hp, _⟩ => by simp [State.busy, hp] at hb
  exact ⟨t, ht, (codecMove_of_next ht).arrow_or_rest.resolve_right not_rest⟩

/-! ## Requests -/

/-- Settles O50: events issue nothing, and of the moves only those of X_OPEN, X_READ and X_CLOSE issue anything. -/
theorem requestsOnlyFromTheirSteps : Obligations.RequestsOnlyFromTheirSteps := by
  intro s t h hs
  have held_of_holding (hp : holdsStream s.ph = true) : s.held = true := h.held.trans hp
  rcases step_cases hs with ⟨b, _, he⟩ | ⟨_, rfl⟩ | ⟨host, draws, rfl⟩ | hm
  · exact .inl (congrArg Env.requests (exec_env (s := s.popEvent) he))
  · exact .inl rfl
  · exact .inl rfl
  · cases hm with
    | notFound hp hf =>
      have hheld : s.held = false := h.held.trans (congrArg holdsStream hp)
      exact .inr (.inl ⟨hp, rfl, nofun, hf.trans hheld.symm⟩)
    | accept hp hf => exact .inr (.inl ⟨hp, rfl, nofun, hf⟩)
    | refuse hp => exact .inr (.inr (.inl ⟨hp, List.append_assoc _ _ _, rfl, rfl⟩))
    | endOfData _ hp | chunk _ _ hp =>
      exact .inr (.inr (.inr (.inl ⟨hp, held_of_holding (congrArg holdsStream hp), rfl⟩)))
    | close hp => exact .inr (.inr (.inr (.inr ⟨hp, held_of_holding (congrArg holdsStream hp), rfl, rfl⟩)))
    | rest | decode | skip | endOfChunk | allocate | mismatch | pair | complete => exact .inl rfl

/-! ## The host's duties -/

theorem idleAfter_of_other {idle : Bool} (hr : e ≠ .reset) (hc : ∀ b, e ≠ .write .cmd b) :
    idleAfter idle e = idle := by
  cases e with
  | write r v =>
    have hcmd : r ≠ .cmd := fun h => hc v (congrArg (HostEvent.write · v) h)
    simp [idleAfter, hcmd]
  | reset => exact absurd rfl hr
  | read | present | takeResult => rfl

/-- A command of a unit never leaves the Codec in `IDLE`, and the reserved one changes nothing (R136 to R138). -/
theorem exec_idle (h : exec i s = .next t) : (t.ph == .idle) = (s.ph == .idle && !i.wf) := by
  rcases exec_next h with ⟨rfl, hp | rfl⟩ | ⟨_, ⟨rfl, _, rfl⟩ | ⟨rfl, _, rfl⟩ | ⟨rfl, rfl⟩⟩
  · have hidle : t.ph ≠ .idle := fun hph => by simp [hph, Phase.atRest] at hp
    simp [hidle]
  all_goals simp [Instr.wf]

/-- Whether the Codec is in `IDLE` after an event is what `idleAfter` tells: a command of a unit ends it, a reset brings
it back. -/
theorem handle_idle (h : handle e s = .next t) : (t.ph == .idle) = idleAfter (s.ph == .idle) e := by
  rcases handle_next h with ⟨b, rfl, he⟩ | ⟨rfl, rfl⟩ | ⟨hc, hr, _⟩
  · exact exec_idle he
  · rfl
  · rw [handle_keeps_ph h hr hc, idleAfter_of_other hr hc]

theorem handle_pending (h : handle e s = .next t) : t.host.pending = s.host.pending := by
  rcases handle_next h with ⟨_, _, he⟩ | ⟨_, rfl⟩ | ⟨hc, hr, _⟩
  · rw [exec_host he]
  · rfl
  · exact (handle_keeps_codec h hr hc).2

/-- No arrow of a move enters or leaves `IDLE` (R150). -/
theorem codecArrow_idle {p q : Phase} (h : codecArrow p q = true) : (q == .idle) = (p == .idle) := by
  unfold codecArrow at h
  split at h
  case h_12 => cases h
  all_goals rfl

theorem CodecMove.idle (h : CodecMove s t) : (t.ph == .idle) = (s.ph == .idle) := by
  rcases h.arrow_or_rest with ha | ⟨_, hp⟩
  · exact codecArrow_idle ha
  · rw [hp]

/-- The event that is due is the first to come, and keeps its duty as those after it do. -/
theorem duties_of_dueEvent (hd : hostDuties s = true) (he : s.dueEvent = some e) :
    ∃ timing, isDue timing s = true ∧ keepsDuty (s.ph == .idle) { timing := timing, event := e } = true ∧
      dutiesFrom (idleAfter (s.ph == .idle) e) s.popEvent.host.pending = true := by
  cases hpend : s.host.pending with
  | nil => simp [State.dueEvent, hpend] at he
  | cons p rest =>
    obtain ⟨hdue, rfl⟩ : isDue p.timing s = true ∧ p.event = e := by simpa [State.dueEvent, hpend] using he
    rw [hostDuties, hpend, dutiesFrom_cons, Bool.and_eq_true] at hd
    exact ⟨p.timing, hdue, hd.1, by simpa [hpend] using hd.2⟩

/-- A command of a program is taken at rest (R136, R184). -/
theorem exec_progress (hp : s.ph.atRest = true) (hk : Config.chunkOk s.chunkBytes = true) (hi : i.wf = true) :
    ∃ t, exec i s = .next t := by
  cases i with
  | extractLeft => exact ⟨_, exec_extractLeft hp hk⟩
  | extractRight => exact ⟨_, exec_extractRight hp hk⟩
  | mix => exact ⟨_, exec_mix hp⟩
  | reserved => cases hi

theorem readRegister_progress {r : Reg} (hr : r ≠ .cmd) (s : State) : ∃ t, handle (.read r) s = .next t := by
  cases hv : registerValue r s with
  | some v => exact ⟨_, handle_read_of_value hr hv⟩
  | none => exact ⟨_, handle_read_of_no_value hr hv⟩

/-- An event that is due and keeps its duty is not refused: a command comes at rest, a read is of another register than
`CMD`. -/
theorem handle_progress {idle : Bool} {timing : Timing} (hk : Config.chunkOk s.chunkBytes = true)
    (hdue : isDue timing s = true) (hd : keepsDuty idle { timing := timing, event := e } = true) :
    ∃ t, handle e s = .next t := by
  cases e with
  | write r v =>
    by_cases hr : r = .cmd
    · subst hr
      obtain ⟨hwf, rfl⟩ : (decodeByte v).wf = true ∧ timing = .atRest := by simpa [keepsDuty] using hd
      exact handle_write_cmd v s ▸ exec_progress hdue hk hwf
    · exact ⟨s, if_neg hr⟩
  | read r => exact readRegister_progress (by simpa [keepsDuty] using hd) s
  | present l r => exact ⟨_, rfl⟩
  | takeResult => exact ⟨_, rfl⟩
  | reset => exact ⟨_, rfl⟩

/-- A dutiful host takes a result at rest, and not in `IDLE` (R154). -/
theorem done_of_takeResult (hd : hostDuties s = true) (he : s.dueEvent = some .takeResult) : s.ph = .done := by
  obtain ⟨timing, hdue, hduty, _⟩ := duties_of_dueEvent hd he
  obtain ⟨rfl, hidle⟩ : timing = .atRest ∧ s.ph ≠ .idle := by simpa [keepsDuty] using hduty
  have hp : s.ph.atRest = true := hdue
  cases hph : s.ph with
  | done => rfl
  | idle => exact absurd hph hidle
  | _ => rw [hph] at hp; cases hp

theorem step_keeps_duties (hd : hostDuties s = true) (hs : step s = .next t) : hostDuties t = true := by
  rcases step_next hs with ⟨e, hdue, he⟩ | ⟨_, hstep⟩
  · obtain ⟨_, _, _, hrest⟩ := duties_of_dueEvent hd hdue
    rw [hostDuties, handle_idle he, handle_pending he]
    exact hrest
  · have hm := codecMove_of_next hstep
    obtain ⟨_, _, _, _, hhost, _, _⟩ := hm.keeps_inputs
    rw [hostDuties, hm.idle, hhost]
    exact (dutiesFrom_tickPending _ _).trans hd

theorem step_progress (h : Inv s) (hd : hostDuties s = true) : ∃ t, step s = .next t := by
  cases he : s.dueEvent with
  | some e =>
    obtain ⟨_, hdue, hduty, _⟩ := duties_of_dueEvent hd he
    rw [step_of_dueEvent_some he]
    exact handle_progress (s := s.popEvent) h.chunk hdue hduty
  | none =>
    rw [step_of_dueEvent_none he]
    exact Inv.codecStep_progress (s := s.tickEvent) (h.with_host_draws _ _)

/-- Settles O44: there is a next state, and it keeps the invariants and the duties. -/
theorem dutifulHostNeverStops : Obligations.DutifulHostNeverStops := by
  intro s h hd
  obtain ⟨t, hs⟩ := step_progress h hd
  exact ⟨done_of_takeResult hd, t, hs, stepKeepsInvariant s t h hs, step_keeps_duties hd hs⟩

end Sys2Proof.Machine
end

section
/-! PROOFS. The platform of several Codecs (00_scope.md R12, 60_exceptions.md R175): what one of its steps does to
each Codec, and by induction on the schedule what a run does. Settles O57. -/

namespace Sys2Proof.Safety

open Sys2Proof.Machine

variable {p q : List State} {i : Nat} {sched : List Nat}

/-- A platform step goes nowhere, or replaces the Codec that steps by its next state. -/
theorem platformStep_next (h : platformStep p i = .next q) :
    (p[i]? = none ∧ q = p) ∨ ∃ s t, p[i]? = some s ∧ step s = .next t ∧ q = p.set i t := by
  unfold platformStep at h
  split at h
  next hi => exact .inl ⟨hi, by simpa using h.symm⟩
  next s hi =>
    split at h
    next t hs => exact .inr ⟨s, t, hi, hs, by simpa using h.symm⟩
    all_goals cases h

theorem platformRun_cons_next (h : platformRun p (i :: sched) = .next q) :
    ∃ m, platformStep p i = .next m ∧ platformRun m sched = .next q := by
  unfold platformRun at h
  split at h
  next m hm => exact ⟨m, hm, h⟩
  all_goals cases h

theorem platformStep_length (h : platformStep p i = .next q) : q.length = p.length := by
  rcases platformStep_next h with ⟨_, rfl⟩ | ⟨s, t, _, _, rfl⟩
  · rfl
  · exact List.length_set

/-- In a platform step Codec `j` takes one step of its own if it is its turn, and none otherwise. -/
theorem platformStep_getElem? (h : platformStep p i = .next q) {j : Nat} {s : State} (hj : p[j]? = some s) :
    ∃ t, q[j]? = some t ∧ run (if i == j then 1 else 0) s = .next t := by
  by_cases hij : i = j
  · subst hij
    rcases platformStep_next h with ⟨hnone, _⟩ | ⟨s', t, hi, hs, rfl⟩
    · cases hnone.symm.trans hj
    · obtain rfl : s' = s := Option.some.inj (hi.symm.trans hj)
      have hlt : i < p.length := (List.getElem?_eq_some_iff.mp hj).1
      exact ⟨t, List.getElem?_set_self hlt, by simp [run, hs]⟩
  · refine ⟨s, ?_, by simp [run, hij]⟩
    rcases platformStep_next h with ⟨_, rfl⟩ | ⟨_, t, _, _, rfl⟩
    · exact hj
    · rw [List.getElem?_set_ne hij, hj]

/-- Settles O57, by induction on the schedule: each platform step is a step of one Codec alone. -/
theorem instancesAreIndependent : Obligations.InstancesAreIndependent := by
  intro p q sched h
  induction sched generalizing p with
  | nil =>
    cases h
    exact ⟨rfl, fun j s hj => ⟨s, hj, rfl⟩⟩
  | cons i sched ih =>
    obtain ⟨m, hstep, hrest⟩ := platformRun_cons_next h
    obtain ⟨hlen, hcodecs⟩ := ih m hrest
    refine ⟨hlen.trans (platformStep_length hstep), fun j s hj => ?_⟩
    obtain ⟨u, hu, hone⟩ := platformStep_getElem? hstep hj
    obtain ⟨t, ht, hmany⟩ := hcodecs j u hu
    exact ⟨t, ht, by rw [List.count_cons, Nat.add_comm, run_add _ _ _ _ hone, hmany]⟩

end Sys2Proof.Safety
end

section
/-! PROOFS. The Codec at rest (60_exceptions.md R178), the three failures from START to DONE (R156 to R158), and the records
a host is given (R148, R165). Settles O14, O29, O30, O33, O58. -/

namespace Sys2Proof.Machine

open Sys2Proof.Safety

variable {s t : State}

/-! ## At rest -/

theorem step_atRest (hp : s.ph.atRest = true) (hq : s.host.pending = []) : step s = .next s :=
  (step_of_no_event hq).trans (codecStep_atRest hp)

/-- Settles O14, by induction on the steps, each of which stays where it is. -/
theorem atRestNothingHappens : Obligations.AtRestNothingHappens := by
  intro s n hp hq
  induction n with
  | zero => rfl
  | succ n ih => rw [run, step_atRest hp hq]; exact ih

/-! ## The three failures -/

/-- Either command of the Extractor at rest is `START` of an extraction (R136). -/
theorem exec_startExtract {i : Instr} (hi : i = .extractLeft ∨ i = .extractRight) (hp : s.ph.atRest = true)
    (hk : Config.chunkOk s.chunkBytes = true) : ∃ w, exec i s = .next (s.startExtract w) := by
  rcases hi with rfl | rfl
  · exact ⟨_, exec_extractLeft hp hk⟩
  · exact ⟨_, exec_extractRight hp hk⟩

/-- Settles O29: the one step is the move of X_OPEN for a resource that is not found. -/
theorem missingResourceFails : Obligations.MissingResourceFails := by
  intro i s c later hi hp hk hw hs hf
  obtain ⟨w, hexec⟩ := exec_startExtract hi hp hk
  obtain rfl : s.openAnswer = c := openAnswer_of_sessions hs
  have hmove := CodecMove.notFound (s := s.startExtract w) rfl hf
  have hrun := (Reach.one (s := s.startExtract w) hw rfl hmove.next).run
  exact ⟨_, _, hexec, hrun, rfl, rfl, rfl, rfl, rfl, rfl⟩

theorem formatAccepted_eq_false {d : Descriptor} (h : d.parsable = false ∨ d.bits ≠ 16 ∨ d.channels ≠ 2) :
    formatAccepted d = false := by
  rw [← Bool.not_eq_true, formatAccepted_iff]
  rintro ⟨hparsable, hbits, hchannels⟩
  rcases h with h | h | h
  · cases h.symm.trans hparsable
  · exact h hbits
  · exact h hchannels

/-- Settles O30: the one step is the move of X_OPEN for a format that is refused. -/
theorem wrongFormatFails : Obligations.WrongFormatFails := by
  intro i s c later hi hp hk hw hs hf hformat
  obtain ⟨w, hexec⟩ := exec_startExtract hi hp hk
  obtain rfl : s.openAnswer = c := openAnswer_of_sessions hs
  have hmove := CodecMove.refuse (s := s.startExtract w) rfl hf (formatAccepted_eq_false hformat)
  have hrun := (Reach.one (s := s.startExtract w) hw rfl hmove.next).run
  exact ⟨_, _, hexec, hrun, rfl, rfl, rfl, rfl, List.append_assoc _ _ _, rfl⟩

/-- Settles O33: the one step is the move of M_CHECK for lengths that differ. -/
theorem lengthMismatchFails : Obligations.LengthMismatchFails := by
  intro s hp hw hne
  have hmove := CodecMove.mismatch (s := s.startMix 0b10#2) rfl hne
  have hrun := (Reach.one (s := s.startMix 0b10#2) hw rfl hmove.next).run
  exact ⟨_, _, exec_mix hp, hrun, rfl, rfl, rfl, rfl, rfl, rfl, rfl⟩

/-! ## What a host is given -/

/-- The failures are the outcomes with a code from 2 up (R86, R155). -/
theorem isFailure_iff (c : OutcomeCode) : isFailure c = true ↔ 2 ≤ (outcomeBits c).toNat := by
  cases c <;> decide

/-- The record has no buffer beside a failure code (R165). -/
def bufferless (r : OpResult) : Prop := 2 ≤ (outcomeBits r.outcome).toNat → r.buffer = none

/-- The result that is taken, at any time, is one record without a buffer beside a failure code (R148, R165). -/
theorem takeResult_observes (s : State) :
    ∃ free r, takeResult s = (s.draw free).observe (.result r) ∧ r.outcome = s.outcome ∧ r.trunc = s.trunc ∧
      bufferless r := by
  obtain ⟨free, r, htake, houtcome, htrunc, hbuffer⟩ := takeResult_cases s
  refine ⟨free, r, htake, houtcome, htrunc, fun hcode => hbuffer ?_⟩
  rwa [isFailure_iff, ← houtcome]

/-- No record the host has been given has a buffer beside a failure code. -/
def recordsBufferless (s : State) : Prop := ∀ r, .result r ∈ s.host.seen → bufferless r

theorem recordsBufferless_observe {o : Observation} (h : recordsBufferless s) (ho : ∀ r, o = .result r → bufferless r) :
    recordsBufferless (s.observe o) := by
  intro r hr
  rw [State.observe_host, List.mem_append, List.mem_singleton] at hr
  rcases hr with hold | hnew
  · exact h r hold
  · exact ho r hnew.symm

theorem recordsBufferless_of_host (h : recordsBufferless s) (hhost : t.host = s.host) : recordsBufferless t := by
  rwa [recordsBufferless, hhost]

/-- Only the taking of a result gives the host a record; a read gives it a register's value, the other events nothing. -/
theorem handle_keeps_recordsBufferless {e : HostEvent} (h : recordsBufferless s) (he : handle e s = .next t) :
    recordsBufferless t := by
  cases e with
  | write r v =>
    by_cases hr : r = .cmd
    · subst hr
      exact recordsBufferless_of_host h (exec_host ((handle_write_cmd v s).symm.trans he))
    · obtain rfl : s = t := by simpa [handle, writeRegister, hr] using he
      exact h
  | read r =>
    obtain ⟨_, free, v, rfl⟩ := readRegister_next he
    exact recordsBufferless_observe (s := s.draw free) h nofun
  | present l r => cases he; exact h
  | takeResult =>
    obtain ⟨free, r, htake, _, _, hr⟩ := takeResult_observes s
    obtain rfl : (s.draw free).observe (.result r) = t := by simpa [handle, htake] using he
    exact recordsBufferless_observe (s := s.draw free) h fun _ heq => Observation.result.inj heq ▸ hr
  | reset => cases he; exact h

theorem step_keeps_recordsBufferless (h : recordsBufferless s) (hs : step s = .next t) : recordsBufferless t := by
  rcases step_next hs with ⟨e, _, he⟩ | ⟨_, hc⟩
  · exact handle_keeps_recordsBufferless (s := s.popEvent) h he
  · obtain ⟨_, _, _, _, hhost, _⟩ := (codecMove_of_next hc).keeps_inputs
    exact recordsBufferless_of_host (s := s.tickEvent) h hhost

/-- Settles O58: `takeResult_observes` for any state, and every step keeps `recordsBufferless`. -/
theorem noFailureComesWithBuffer : Obligations.NoFailureComesWithBuffer := by
  refine ⟨fun s => ?_, fun s t => step_keeps_recordsBufferless⟩
  obtain ⟨free, r, htake, houtcome, htrunc, hbuffer⟩ := takeResult_observes s
  exact ⟨(s.draw free).draws, r, congrArg Host.Outcome.next htake, houtcome, htrunc, houtcome ▸ hbuffer⟩

end Sys2Proof.Machine
end

section
/-! PROOFS. An extraction against an endless stream (70_reset_and_hazards.md R195), the refusal of a `CHUNK_BYTES` that
breaks R10 (R188), and the reset event (60_exceptions.md R181, R183). Settles O9, O38, O56. -/

namespace Sys2Proof.Machine

open Sys2Proof.Safety

variable {s : State} {c : Session}

/-! ## An endless stream -/

/-- The stream never answers the end of data: it is endless, and no piece of it is empty (R141, R195). -/
def neverEnds (c : Session) : Prop := c.endless = true ∧ ∀ b ∈ c.segments, b ≠ []

theorem streamAnswer_of_neverEnds {n : Nat} (draw : Nat) (hn : 0 < n) (h : neverEnds c) :
    ∃ b, b ≠ [] ∧ streamAnswer n draw c = .data b := by
  obtain ⟨he, hpieces⟩ := h
  cases hc : c.segments with
  | nil => exact ⟨freeChunk draw n, by simp [freeChunk, hn.ne'], by simp [streamAnswer, hc, he]⟩
  | cons seg rest =>
    have hseg : seg ≠ [] := hpieces seg (by simp [hc])
    exact ⟨seg.take n, by simp [hseg, hn.ne'], by simp [streamAnswer, hc]⟩

/-- What a read leaves of the stream never ends either: a piece is taken off whole, or some of it is left (R58). -/
theorem neverEnds_streamAfter (n : Nat) (h : neverEnds c) : neverEnds (streamAfter n c) := by
  obtain ⟨he, hpieces⟩ := h
  refine ⟨(streamAfter_endless n c).trans he, ?_⟩
  cases hc : c.segments with
  | nil => simp [streamAfter, hc]
  | cons seg rest =>
    have hrest : ∀ b ∈ rest, b ≠ [] := fun b hb => hpieces b (by simp [hc, hb])
    by_cases hle : seg.length ≤ n <;> simpa [streamAfter, hc, hle] using hrest

/-- A Codec in X_READ of a stream that never ends, which no event of the host interrupts. -/
structure ReadsEndless (s : State) (c : Session) : Prop where
  waits   : hostWaits s = true
  reading : s.ph = .xRead
  chunk   : Config.chunkOk s.chunkBytes = true
  stream  : s.env.stream = some c
  endless : neverEnds c

/-- One chunk on, the Codec is in X_READ again, of what is left of the stream (R101 to R103). -/
theorem ReadsEndless.next_chunk (h : ReadsEndless s c) :
    ∃ b, Reach (b.length / 4 * 2 + 1 + 1) s (s.afterChunk c b) ∧
      ReadsEndless (s.afterChunk c b) (streamAfter s.chunkBytes c) := by
  obtain ⟨b, hne, ha⟩ := streamAnswer_of_neverEnds s.draws (chunkOk_pos h.chunk) h.endless
  exact ⟨b, readChunk_reach h.waits h.reading h.chunk h.stream hne ha,
    { waits := h.waits, reading := rfl, chunk := h.chunk, stream := rfl
      endless := neverEnds_streamAfter _ h.endless }⟩

/-- It stays busy for any number of chunks, and each takes a step. -/
theorem ReadsEndless.reach (h : ReadsEndless s c) (chunks : Nat) : ∃ n t, chunks ≤ n ∧ Reach n s t := by
  induction chunks generalizing s c with
  | zero => exact ⟨0, s, le_rfl, Reach.zero s⟩
  | succ chunks ih =>
    obtain ⟨b, hchunk, hnext⟩ := h.next_chunk
    obtain ⟨n, t, hle, hreach⟩ := ih hnext
    exact ⟨_, t, by omega, hchunk.trans hreach⟩

theorem busyFor_of_le {m n : Nat} (hle : m ≤ n) (h : busyFor n s) : busyFor m s :=
  fun k hk => h k (hk.trans_le hle)

/-- Settles O38, by induction on the chunks: `START`, the open step, then more chunks than the steps asked for. -/
theorem endlessStreamNeverEnds : Obligations.EndlessStreamNeverEnds := by
  intro i s c later hi hp hk hw hs he hpieces hf ha
  obtain ⟨w, hexec⟩ := exec_startExtract hi hp hk
  obtain rfl : s.openAnswer = c := openAnswer_of_sessions hs
  have hopen := (CodecMove.accept (s := s.startExtract w) rfl hf ha).next
  have hreads : ReadsEndless (s.accepted w) s.openAnswer :=
    { waits := hw, reading := rfl, chunk := hk, stream := if_pos hf, endless := ⟨he, hpieces⟩ }
  refine ⟨_, hexec, fun n => ?_⟩
  obtain ⟨m, t, hle, hreach⟩ := hreads.reach n
  exact busyFor_of_le (Nat.le_succ_of_le hle) (Reach.step (s := s.startExtract w) hw rfl hopen hreach).busy

/-! ## A bad chunk size -/

theorem whenAtRest_of_atRest (hp : s.ph.atRest = true) (start : Host.Outcome State Fault Refusal) :
    whenAtRest s start = start :=
  if_pos hp

theorem startExtraction_of_not_chunkOk (hk : ¬ Config.chunkOk s.chunkBytes = true) (w : CmdWord) :
    startExtraction w s = .refused .chunkSize :=
  if_neg hk

theorem stepXRead_of_not_chunkOk (hk : ¬ Config.chunkOk s.chunkBytes = true) : stepXRead s = .refused .chunkSize :=
  if_neg hk

/-- Settles O9: `START` of an extraction and the step X_READ test `CHUNK_BYTES` before anything else. -/
theorem badChunkSizeRefused : Obligations.BadChunkSizeRefused := by
  intro s hbad
  have hk : ¬ Config.chunkOk s.chunkBytes = true := fun h => hbad ((chunkOk_iff _).mp h)
  have refuses (hp : s.ph.atRest = true) (w : CmdWord) : whenAtRest s (startExtraction w s) = .refused .chunkSize :=
    (whenAtRest_of_atRest hp _).trans (startExtraction_of_not_chunkOk hk w)
  exact ⟨fun hp => ⟨refuses hp 0b00#2, refuses hp 0b01#2⟩,
    fun hp => (codecStep_xRead hp).trans (stepXRead_of_not_chunkOk hk)⟩

/-! ## Reset -/

theorem handle_reset (s : State) : handle .reset s = .next s.resetCodec := rfl

theorem resetCodec_status (s : State) : s.resetCodec.status = 0x00#8 := by
  have hbusy : s.resetCodec.busy = false := rfl
  have hdone : s.resetCodec.isDone = false := rfl
  simp [State.status, hbusy, hdone, outcomeBits]

/-- After a reset neither unit has been started, so no length register holds a value (R43, log 8). -/
theorem registerValue_resetCodec (s : State) :
    registerValue .llen s.resetCodec = none ∧ registerValue .rlen s.resetCodec = none ∧
      registerValue .xlen s.resetCodec = none ∧ registerValue .olen s.resetCodec = none := by
  simp [registerValue]

/-- Settles O56, from the fields of `State.resetCodec`, `STATUS` and the length registers. -/
theorem resetEvent : Obligations.ResetEvent := by
  intro s
  obtain ⟨hllen, hrlen, hxlen, holen⟩ := registerValue_resetCodec s
  exact ⟨s.resetCodec, handle_reset s, rfl, rfl, rfl, rfl, rfl, resetCodec_status s, hllen, hrlen, hxlen, holen,
    rfl, rfl, rfl, rfl⟩

end Sys2Proof.Machine
end
